-- ==== Sys2Proof/Word.lean ====
section
/-! DEFINITION. The byte, the unit of every datum of the engine (00_scope.md R7, R8). -/

namespace Sys2Proof

/-- "A *byte* is an unsigned 8-bit value", bit 7 the most significant (00_scope.md R8). -/
abbrev Byte := BitVec 8

/-- The 2-bit command word a write to CTRL carries (30_encoding.md R48). -/
abbrev CommandWord := BitVec 2

end Sys2Proof
end

