-- ==== Sys2Proof/Config.lean ====
section
/-! DEFINITION. What the spec leaves to the implementation: the two OPEN parameters, and the free value of a
buffer byte that nothing has written. -/

namespace Sys2Proof

/-- The two buffers, separate memories that never alias (10_state.md R22, R23). -/
inductive Buffer where
  /-- The input buffer: host-written, engine-read. -/
  | ibuf
  /-- The output buffer: engine-written, host-read. -/
  | obuf
  deriving DecidableEq, Repr

/-- The OPEN parameters of the spec (00_scope.md R5, R6). They are carried in the state, so that a statement about
every state is a statement about every value of them (log entry 1). -/
structure Config where
  /-- `MAX_CHARS`, the capacity of each buffer in bytes. -/
  maxChars : Nat
  /-- `LEN_W`, the width in bits of LEN, IDX and a buffer index. -/
  lenW : Nat
  deriving DecidableEq, Repr

namespace Config

/-- The constraints on the parameters: `MAX_CHARS >= 1` and `MAX_CHARS < 2^LEN_W` (00_scope.md R5, R6). -/
abbrev wf (c : Config) : Prop := 1 ≤ c.maxChars ∧ c.maxChars < 2 ^ c.lenW

/-- The configuration of the spec's test vectors (92_eei_decisions.md D26), "not a value of the hardware".
DESIGN CHOICE: `State.reset` uses it (log entry 1). -/
def testVectors : Config := ⟨8, 8⟩

/-- Does a `LEN_W`-bit field carry the value `v`? (20_memory.md R34: a value outside the width of its location
cannot be expressed on the interface.) -/
abbrev fits (c : Config) (v : Nat) : Prop := v < 2 ^ c.lenW

/-- FREE VALUE: what byte `i` of a buffer reads as when nothing has written it since the last RESET
(93_implementation_defined.md U1, U10: "an unconstrained argument"). The first argument is the number of RESETs so
far, so that a RESET makes every byte unspecified anew. It has no body: nothing can be proved about its values
(log entry 4). -/
opaque unspecifiedByte : Nat → Buffer → Nat → Byte

end Config

end Sys2Proof
end

