-- ==== Sys2Proof/Syntax.lean ====
section
/-! DEFINITION. The host transactions and the command words, one constructor per row of opcode_table.json, and the
encoded form in which the HOST presents them (30_encoding.md R46 to R48). -/

namespace Sys2Proof

/-- What the HOST can issue. An operand has the width of the location it addresses (20_memory.md R34): 8 bits, 2
bits, or `LEN_W` bits; a `LEN_W`-bit operand is a `Nat` that `Instr.wellFormed` bounds. The data of a write to an
unmapped register or space, to which the spec gives no width, is a byte (DESIGN CHOICE, log entry 16). -/
inductive Instr where
  /-- Read CTRL (R83). -/
  | rdCtrl
  /-- Read STATUS (R76). -/
  | rdStatus
  /-- Read KEY (R77). -/
  | rdKey
  /-- Read LEN (R78). -/
  | rdLen
  /-- Read KS (R79). -/
  | rdKs
  /-- Read IDX (R80). -/
  | rdIdx
  /-- Read the unmapped register 6 (R83). -/
  | rdReg6
  /-- Read the unmapped register 7 (R83). -/
  | rdReg7
  /-- Write a command word to CTRL (R66). -/
  | wrCtrl (op : CommandWord)
  /-- Write the read-only STATUS (R83). -/
  | wrStatus (v : Byte)
  /-- Write KEY (R73). -/
  | wrKey (v : Byte)
  /-- Write LEN (R74). -/
  | wrLen (v : Nat)
  /-- Write the read-only KS (R83). -/
  | wrKs (v : Byte)
  /-- Write the read-only IDX (R83). -/
  | wrIdx (v : Nat)
  /-- Write the unmapped register 6 (R83); the width of its data is the model's choice (log entry 16). -/
  | wrReg6 (v : Byte)
  /-- Write the unmapped register 7 (R83); the width of its data is the model's choice (log entry 16). -/
  | wrReg7 (v : Byte)
  /-- Read a byte of IBUF (R81). -/
  | rdIbuf (index : Nat)
  /-- Read a byte of OBUF (R82). -/
  | rdObuf (index : Nat)
  /-- Read in the unmapped space 0b11 (R83). -/
  | rdUnmapped (index : Nat)
  /-- Write a byte of IBUF (R75). -/
  | wrIbuf (index : Nat) (v : Byte)
  /-- Write in the read-only space OBUF (R83). -/
  | wrObuf (index : Nat) (v : Byte)
  /-- Write in the unmapped space 0b11 (R83); the width of its data is the model's choice (log entry 16). -/
  | wrUnmapped (index : Nat) (v : Byte)
  /-- Command NOP (R67). -/
  | nop
  /-- Command ENC: start an encrypt run (R68). -/
  | enc
  /-- Command DEC: start a decrypt run (R69). -/
  | dec
  /-- Command CLR: set STATE to IDLE (R72). -/
  | clr
  deriving DecidableEq, Repr

/-- The encoded form of what the HOST issues. -/
inductive Request where
  /-- One transaction, its bits most significant first: the header of R46, then the index of format BUF, then the
  data operand of a write (log entry 8). -/
  | transaction (bits : List Bool)
  /-- One command word named alone, the line `CMD ...` of a host program (30_encoding.md R52); it acts as the
  WR_CTRL transaction that carries it (log entry 10). -/
  | command (op : CommandWord)
  deriving DecidableEq, Repr

end Sys2Proof
end

