-- ==== Sys2Proof/WellFormed.lean ====
section
/-! DEFINITION. Which instructions the interface can express: every operand fits its field (20_memory.md R34). -/

namespace Sys2Proof

/-- A `LEN_W`-bit operand is below `2^LEN_W`; every other operand is bounded by its type. "A value outside that
width cannot be expressed on the interface" (20_memory.md R34). -/
def Instr.wellFormed (c : Config) : Instr → Bool
  | .wrLen v => decide (c.fits v)
  | .wrIdx v => decide (c.fits v)
  | .rdIbuf i => decide (c.fits i)
  | .rdObuf i => decide (c.fits i)
  | .rdUnmapped i => decide (c.fits i)
  | .wrIbuf i _ => decide (c.fits i)
  | .wrObuf i _ => decide (c.fits i)
  | .wrUnmapped i _ => decide (c.fits i)
  | .rdCtrl => true
  | .rdStatus => true
  | .rdKey => true
  | .rdLen => true
  | .rdKs => true
  | .rdIdx => true
  | .rdReg6 => true
  | .rdReg7 => true
  | .wrCtrl _ => true
  | .wrStatus _ => true
  | .wrKey _ => true
  | .wrKs _ => true
  | .wrReg6 _ => true
  | .wrReg7 _ => true
  | .nop => true
  | .enc => true
  | .dec => true
  | .clr => true

end Sys2Proof
end

