-- ==== Sys2Proof/Decode.lean ====
section
/-! DEFINITION. The decoder of host transactions and command words, and after it the encoder, both from
30_encoding.md R46 to R48. -/

namespace Sys2Proof

/-- Why a bit string is no transaction. Both are raised by the decoder and are safe: such a string cannot be
expressed on the interface, since "Every header value is defined; there is no undefined header" (R47). -/
inductive DecodeError where
  /-- Fewer bits than the header and its operands need. -/
  | truncated
  /-- Bits left over after the last operand. -/
  | trailingBits
  deriving DecidableEq, Repr

/-- The low `w` bits of `n`, most significant first (00_scope.md R8). -/
def toBits : Nat → Nat → List Bool
  | 0, _ => []
  | w + 1, n => n.testBit w :: toBits w n

/-- The unsigned value of a bit string, most significant bit first (00_scope.md R8). -/
def ofBits : List Bool → Nat
  | [] => 0
  | b :: bs => b.toNat * 2 ^ bs.length + ofBits bs

/-- The value of a bit string that must be exactly `w` bits long. -/
def exactField (w : Nat) (bits : List Bool) : Except DecodeError Nat :=
  if bits.length < w then .error .truncated
  else if w < bits.length then .error .trailingBits
  else .ok (ofBits bits)

/-- An instruction without operand takes no bits after its header. -/
def noOperand (i : Instr) (bits : List Bool) : Except DecodeError Instr :=
  (exactField 0 bits).map fun _ => i

/-- A data operand of 8 bits. -/
def byteOperand (f : Byte → Instr) (bits : List Bool) : Except DecodeError Instr :=
  (exactField 8 bits).map fun v => f (BitVec.ofNat 8 v)

/-- The data operand of CTRL, 2 bits. -/
def commandOperand (f : CommandWord → Instr) (bits : List Bool) : Except DecodeError Instr :=
  (exactField 2 bits).map fun v => f (BitVec.ofNat 2 v)

/-- An operand of `LEN_W` bits: the data of LEN and IDX, and the index of a buffer read. -/
def countOperand (c : Config) (f : Nat → Instr) (bits : List Bool) : Except DecodeError Instr :=
  (exactField c.lenW bits).map f

/-- An index of `LEN_W` bits and then a data operand of 8 bits. -/
def indexedByteOperand (c : Config) (f : Nat → Byte → Instr) (bits : List Bool) : Except DecodeError Instr :=
  (exactField (c.lenW + 8) bits).map fun v => f (v / 2 ^ 8) (BitVec.ofNat 8 v)

/-- Format REG after `we` and `space = 0b00`: three bits `reg`, then the data of a write (R46, R47).
DESIGN CHOICE: the data of a write to the unmapped registers 6 and 7 has 8 bits; the spec gives it no width
(log entry 16). -/
def decodeReg (c : Config) : List Bool → Except DecodeError Instr
  | false :: false :: false :: false :: bits => noOperand .rdCtrl bits
  | false :: false :: false :: true :: bits => noOperand .rdStatus bits
  | false :: false :: true :: false :: bits => noOperand .rdKey bits
  | false :: false :: true :: true :: bits => noOperand .rdLen bits
  | false :: true :: false :: false :: bits => noOperand .rdKs bits
  | false :: true :: false :: true :: bits => noOperand .rdIdx bits
  | false :: true :: true :: false :: bits => noOperand .rdReg6 bits
  | false :: true :: true :: true :: bits => noOperand .rdReg7 bits
  | true :: false :: false :: false :: bits => commandOperand .wrCtrl bits
  | true :: false :: false :: true :: bits => byteOperand .wrStatus bits
  | true :: false :: true :: false :: bits => byteOperand .wrKey bits
  | true :: false :: true :: true :: bits => countOperand c .wrLen bits
  | true :: true :: false :: false :: bits => byteOperand .wrKs bits
  | true :: true :: false :: true :: bits => countOperand c .wrIdx bits
  | true :: true :: true :: false :: bits => byteOperand .wrReg6 bits
  | true :: true :: true :: true :: bits => byteOperand .wrReg7 bits
  | _ => .error .truncated

/-- One transaction: bit `we`, two bits `space`, and then format REG when `space = 0b00`, format BUF otherwise:
"the format is told by `space` alone" (R46, R51). DESIGN CHOICE: the data of a write in the unmapped space 0b11 has
8 bits; the spec gives it no width (log entry 16). -/
def decodeTransaction (c : Config) : List Bool → Except DecodeError Instr
  | we :: false :: false :: bits => decodeReg c (we :: bits)
  | false :: false :: true :: bits => countOperand c .rdIbuf bits
  | false :: true :: false :: bits => countOperand c .rdObuf bits
  | false :: true :: true :: bits => countOperand c .rdUnmapped bits
  | true :: false :: true :: bits => indexedByteOperand c .wrIbuf bits
  | true :: true :: false :: bits => indexedByteOperand c .wrObuf bits
  | true :: true :: true :: bits => indexedByteOperand c .wrUnmapped bits
  | _ => .error .truncated

/-- The 2-bit command word: all four values are defined (R48). -/
def decodeCommand (op : CommandWord) : Instr :=
  if op = 0b00#2 then .nop
  else if op = 0b01#2 then .enc
  else if op = 0b10#2 then .dec
  else .clr

/-- The decoder, total on every request. -/
def decode (c : Config) : Request → Except DecodeError Instr
  | .transaction bits => decodeTransaction c bits
  | .command op => .ok (decodeCommand op)

/-! The encoder, from the header map (R47) and the command words (R48). -/

/-- A REG header, its 6 bits as the header map writes them. -/
def regHeader (h : Nat) : List Bool := toBits 6 h

/-- A BUF header, its 3 bits as the header map writes them. -/
def bufHeader (h : Nat) : List Bool := toBits 3 h

/-- The request that stands for a well-formed instruction. It says nothing of an instruction that is not well formed,
which has no request (20_memory.md R34): its fields hold only the low bits of the operand, and the requests of a HOST
program are made by `Machine.hostRequest`, which does not use it there (log entry 17). -/
def encode (c : Config) : Instr → Request
  | .rdCtrl => .transaction (regHeader 0x00)
  | .rdStatus => .transaction (regHeader 0x01)
  | .rdKey => .transaction (regHeader 0x02)
  | .rdLen => .transaction (regHeader 0x03)
  | .rdKs => .transaction (regHeader 0x04)
  | .rdIdx => .transaction (regHeader 0x05)
  | .rdReg6 => .transaction (regHeader 0x06)
  | .rdReg7 => .transaction (regHeader 0x07)
  | .wrCtrl op => .transaction (regHeader 0x20 ++ toBits 2 op.toNat)
  | .wrStatus v => .transaction (regHeader 0x21 ++ toBits 8 v.toNat)
  | .wrKey v => .transaction (regHeader 0x22 ++ toBits 8 v.toNat)
  | .wrLen v => .transaction (regHeader 0x23 ++ toBits c.lenW v)
  | .wrKs v => .transaction (regHeader 0x24 ++ toBits 8 v.toNat)
  | .wrIdx v => .transaction (regHeader 0x25 ++ toBits c.lenW v)
  | .wrReg6 v => .transaction (regHeader 0x26 ++ toBits 8 v.toNat)
  | .wrReg7 v => .transaction (regHeader 0x27 ++ toBits 8 v.toNat)
  | .rdIbuf i => .transaction (bufHeader 0b001 ++ toBits c.lenW i)
  | .rdObuf i => .transaction (bufHeader 0b010 ++ toBits c.lenW i)
  | .rdUnmapped i => .transaction (bufHeader 0b011 ++ toBits c.lenW i)
  | .wrIbuf i v => .transaction (bufHeader 0b101 ++ (toBits c.lenW i ++ toBits 8 v.toNat))
  | .wrObuf i v => .transaction (bufHeader 0b110 ++ (toBits c.lenW i ++ toBits 8 v.toNat))
  | .wrUnmapped i v => .transaction (bufHeader 0b111 ++ (toBits c.lenW i ++ toBits 8 v.toNat))
  | .nop => .command 0b00#2
  | .enc => .command 0b01#2
  | .dec => .command 0b10#2
  | .clr => .command 0b11#2

/-! The words of opcode_table.json: its `match` and `mask` are over the header alone, 6 bits for a REG row, 3 for a
BUF row, 2 for a command word (R46). -/

/-- How many bits the data operand of a REG header has: none for a read, else the width of the register (R34).
DESIGN CHOICE: 8 bits for the unmapped registers 6 and 7, to which the spec gives no width (log entry 16). -/
def regDataBits (c : Config) (h : Nat) : Nat :=
  if h < 0x20 then 0
  else if h = 0x20 then 2
  else if h = 0x23 ∨ h = 0x25 then c.lenW
  else 8

/-- How many operand bits follow a BUF header: the index, and 8 bits of data for a write (R46). DESIGN CHOICE:
8 bits in the unmapped space 0b11 too, to which the spec gives no width (log entry 16). -/
def bufOperandBits (c : Config) (h : Nat) : Nat :=
  if h < 0b100 then c.lenW else c.lenW + 8

/-- The request of a table word `w` of `nbits` bits, every operand bit 0. A width of at most 2 bits is a command
word, of 3 bits a BUF header, of 4 bits and more a REG header right aligned (log entry 9). A number that is no
header of its format answers the empty bit string, which the decoder refuses. -/
def tableRequest (c : Config) (nbits w : Nat) : Request :=
  if nbits ≤ 2 then
    if w < 4 then .command (BitVec.ofNat 2 w) else .transaction []
  else if nbits = 3 then
    if w < 8 ∧ w % 4 ≠ 0 then .transaction (bufHeader w ++ toBits (bufOperandBits c w) 0) else .transaction []
  else if w < 64 ∧ w / 8 % 4 = 0 then .transaction (regHeader w ++ toBits (regDataBits c w) 0)
  else .transaction []

/-- The instruction this decoder reads from a word of opcode_table.json, in the configuration of `State.reset`. -/
def decodeTableWord (nbits w : Nat) : Option Instr :=
  match decode Config.testVectors (tableRequest Config.testVectors nbits w) with
  | .ok i => some i
  | .error _ => none

end Sys2Proof
end

