-- ==== Sys2Proof/Machine/State.lean ====
section
/-! DEFINITION. The state of one engine (10_state.md R14) as plain data, the reasons a step can stop, and the state
after RESET (70_reset_and_hazards.md R105, R106). -/

namespace Sys2Proof.Machine

/-- STATE, the engine's state (10_state.md R17). -/
inductive EngineState where
  /-- No run has been started since reset or since the last CLR. -/
  | idle
  /-- A run is in progress. -/
  | busy
  /-- The most recent run finished. -/
  | done
  /-- The most recent ENC or DEC was rejected with InvalidLength. -/
  | error
  deriving DecidableEq, Repr

/-- DIR, the direction of the current or most recent accepted run (10_state.md R17). -/
inductive Direction where
  /-- Encrypt, code 0. -/
  | encrypt
  /-- Decrypt, code 1. -/
  | decrypt
  deriving DecidableEq, Repr

/-- A buffer, as the bytes written since the last RESET: pairs (index, byte). An index that is not listed has not
been written and holds no defined value. -/
abbrev Memory := List Host.Cell

/-- The canonical form: indices strictly rising. No entry can equal what an unlisted index holds, which is no
defined value. -/
abbrev Memory.wf (m : Memory) : Prop := (m.map Prod.fst).Pairwise (· < ·)

/-- The result of a host read, with the width of the location read (20_memory.md R34). -/
inductive Reply where
  /-- The 2-bit result of reading CTRL. -/
  | ctrl (v : BitVec 2)
  /-- An 8-bit result. -/
  | byte (v : Byte)
  /-- A result of `LEN_W` bits: LEN or IDX. -/
  | count (v : Nat)
  deriving DecidableEq, Repr

/-- The three kinds of events (10_state.md R13, 20_memory.md R35). -/
inductive Event where
  /-- The HOST issues a request. -/
  | host (r : Request)
  /-- The ENGINE has its turn. -/
  | engine
  /-- The platform resets the block. -/
  | reset
  deriving DecidableEq, Repr

/-- All state of 10_state.md R14, then the model's own fields. CTRL has no storage and STATUS is a view (R16, R17),
so neither is a field. -/
structure State where
  /-- STATE (R17). -/
  state : EngineState
  /-- DIR (R17). -/
  dir : Direction
  /-- KEY, the initial key (R18). -/
  key : Byte
  /-- LEN, the length; its bound `2^LEN_W` is an invariant (R19, log entry 7). -/
  len : Nat
  /-- KS, the evolving key (R20). -/
  ks : Byte
  /-- IDX, the byte index; its bound `2^LEN_W` is an invariant (R21, log entry 7). -/
  idx : Nat
  /-- IBUF (R22). -/
  ibuf : Memory
  /-- OBUF (R23). -/
  obuf : Memory
  /-- Model's own: the parameters MAX_CHARS and LEN_W (log entry 1). -/
  cfg : Config
  /-- Model's own: how many RESETs have happened, which picks the free values (log entry 5). -/
  resets : Nat
  /-- Model's own: the results of the host reads so far, oldest first (log entry 6). -/
  replies : List Reply
  /-- Model's own: the events still to happen, in their total order (20_memory.md R39, log entry 2). -/
  events : List Event
  deriving DecidableEq, Repr

/-- Why the machine stops. Both constructors are raised by an ENGINE turn only, in states that break
10_state.md R28 (a) and that no run reaches. -/
inductive Fault where
  /-- Raised by an ENGINE turn while BUSY with `IDX > LEN`: no step is enabled (42_driver_and_commands.md R71,
  "never happens while BUSY"). Safe. -/
  | noEnabledStep
  /-- Raised by a byte step with `IDX >= MAX_CHARS`, a location that does not exist (20_memory.md R45, "the engine
  can never index out of range"). Safe. -/
  | indexOutOfRange
  deriving DecidableEq, Repr

/-- Why an event has no meaning. -/
inductive Refusal where
  /-- Raised by the dispatcher for an instruction without a meaning; no instruction is in that case. Safe. -/
  | notModelled (mnemonic : String)
  /-- Raised by the step for a bit string that is no transaction; the interface cannot express it
  (30_encoding.md R47). Safe. -/
  | malformedTransaction (why : DecodeError)
  /-- Raised by a meaning given a `LEN_W`-bit operand of `2^LEN_W` or more; the interface cannot express it
  (20_memory.md R34; 93_implementation_defined.md U5, treatment "refuse"). Safe. -/
  | operandNotExpressible
  deriving DecidableEq, Repr

/-- What every meaning answers. -/
abbrev Result := Host.Outcome State Fault Refusal

/-- The state right after the RESET number `resets`, in configuration `c`: every value of 70_reset_and_hazards.md
R105 and R106, and no buffer byte written. The last two arguments are the model's own fields. -/
def State.afterReset (c : Config) (resets : Nat) (replies : List Reply) (events : List Event) : State where
  state := .idle
  dir := .encrypt
  key := 0x00#8
  len := 0
  ks := 0x00#8
  idx := 0
  ibuf := []
  obuf := []
  cfg := c
  resets := resets
  replies := replies
  events := events

/-- The machine right after reset, in the configuration of the spec's test vectors (DESIGN CHOICE, log entry 1). -/
def State.reset : State := State.afterReset Config.testVectors 0 [] []

end Sys2Proof.Machine
end

