-- ==== Sys2Proof/Machine/Flags.lean ====
section
/-! DEFINITION. The only status fields, STATE and DIR, their codes and the STATUS byte (10_state.md R17, R26;
30_encoding.md R49). -/

namespace Sys2Proof.Machine

/-- The 2-bit code of STATE (30_encoding.md R49). -/
def EngineState.code : EngineState → BitVec 2
  | .idle => 0b00#2
  | .busy => 0b01#2
  | .done => 0b10#2
  | .error => 0b11#2

/-- The 1-bit code of DIR: `Encrypt = 0`, `Decrypt = 1` (30_encoding.md R49). -/
def Direction.code : Direction → BitVec 1
  | .encrypt => 0#1
  | .decrypt => 1#1

/-- STATUS as read, `{0b00000, DIR, STATE[1:0]}` (30_encoding.md R49). -/
def State.status (s : State) : Byte := 0b00000#5 ++ s.dir.code ++ s.state.code

end Sys2Proof.Machine
end

