-- ==== Sys2Proof/Machine/Operands.lean ====
section
/-! DEFINITION. The datapath: the rotations, the key scrambler, the byte rotator and the reference function
(00_scope.md R9, R10; 40_key_scrambler.md; 41_byte_rotator.md; 42_driver_and_commands.md R65). -/

namespace Sys2Proof.Machine

/-- `rotl8(v, n)`, the circular left shift by `n mod 8` (00_scope.md R9). -/
def rotl8 (v : Byte) (n : Nat) : Byte :=
  let m := n % 8
  if m = 0 then v else v <<< m ||| v >>> (8 - m)

/-- `rotr8(v, n)`, the circular right shift by `n mod 8` (00_scope.md R10). -/
def rotr8 (v : Byte) (n : Nat) : Byte :=
  let m := n % 8
  if m = 0 then v else v >>> m ||| v <<< (8 - m)

/-- SCRAMBLE: rotate left by the wired constant 5, then OR the wired constant 0x04 (40_key_scrambler.md R53, R55). -/
def scramble (key : Byte) : Byte := rotl8 key 5 ||| 0x04#8

/-- `K(n)`, the key after `n` scrambles of the initial key (40_key_scrambler.md R56, 42_driver_and_commands.md R65). -/
def keyAfter (k0 : Byte) : Nat → Byte
  | 0 => k0
  | n + 1 => scramble (keyAfter k0 n)

/-- The rotator's count, `key[2:0]`, that is `key mod 8` (30_encoding.md R50 (c)). -/
def rotationCount (key : Byte) : Nat := (key.extractLsb' 0 3).toNat

/-- ENC_ONE: rotate left by `key mod 8` (41_byte_rotator.md R60). -/
def encOne (plain key : Byte) : Byte := rotl8 plain (rotationCount key)

/-- DEC_ONE: rotate right by `key mod 8` (41_byte_rotator.md R61). -/
def decOne (cipher key : Byte) : Byte := rotr8 cipher (rotationCount key)

/-- The byte rotator, its path chosen by DIR (30_encoding.md R50 (d)). -/
def rotateByte (d : Direction) (b key : Byte) : Byte :=
  match d with
  | .encrypt => encOne b key
  | .decrypt => decOne b key

/-- The loop of TRANSFORM over the bytes it processes: the output bytes and the final key
(42_driver_and_commands.md R65). -/
def transformBytes (d : Direction) : List Byte → Byte → List Byte × Byte
  | [], key => ([], key)
  | b :: bs, key =>
    let k := scramble key
    let rest := transformBytes d bs k
    (rotateByte d b k :: rest.1, rest.2)

/-- TRANSFORM(S, n, K0, d): the first `n` bytes of `S` (42_driver_and_commands.md R65). -/
def transform (S : List Byte) (n : Nat) (k0 : Byte) (d : Direction) : List Byte × Byte :=
  transformBytes d (S.take n) k0

end Sys2Proof.Machine
end

