-- ==== Sys2Proof/Machine/Ops.lean ====
section
/-! DEFINITION. The shared operations over buffers and registers: reading and writing a byte, answering a read, the
BUSY gate, raising InvalidLength and leaving it, starting a run, the ENGINE's steps, RESET, and which event is next. -/

namespace Sys2Proof.Machine

/-! Buffers. -/

/-- The byte written at index `a` since the last RESET, if there is one. -/
def Memory.read? : Memory → Nat → Option Byte
  | [], _ => none
  | (b, v) :: m, a => if a = b then some v else Memory.read? m a

/-- Write one byte, keeping the indices rising. -/
def Memory.write : Memory → Nat → Byte → Memory
  | [], a, v => [(a, v)]
  | (b, w) :: m, a, v =>
    if a < b then (a, v) :: (b, w) :: m
    else if a = b then (a, v) :: m
    else (b, w) :: Memory.write m a v

/-- The contents of a buffer. -/
def State.buffer (s : State) : Buffer → Memory
  | .ibuf => s.ibuf
  | .obuf => s.obuf

/-- Byte `i` of a buffer: what was written last, or the free value of a byte never written since RESET
(20_memory.md R39, 93_implementation_defined.md U1). -/
def State.bufferByte (s : State) (b : Buffer) (i : Nat) : Byte :=
  match (s.buffer b).read? i with
  | some v => v
  | none => Config.unspecifiedByte s.resets b i

/-- A HOST read of a buffer: the byte when the index is mapped, else zero (20_memory.md R33 (d)). -/
def State.readBuffer (s : State) (b : Buffer) (i : Nat) : Byte :=
  if i < s.cfg.maxChars then s.bufferByte b i else 0x00#8

/-- A HOST write of IBUF: at a mapped index it stores, else it is ignored (20_memory.md R33 (d)). -/
def State.writeIbuf (s : State) (i : Nat) (v : Byte) : State :=
  if i < s.cfg.maxChars then { s with ibuf := s.ibuf.write i v } else s

/-! Transactions. -/

/-- A HOST read: the result goes to the HOST and no state of the engine changes (20_memory.md R36). -/
def State.answer (s : State) (r : Reply) : State := { s with replies := s.replies ++ [r] }

/-- The BUSY write gate: while BUSY a HOST write changes nothing (20_memory.md R40). -/
def State.gated (s : State) (write : State → State) : State :=
  if s.state = .busy then s else write s

/-- A write that is ignored in every state (20_memory.md R33). -/
def State.ignoreWrite (s : State) : State := s

/-- An access with a `LEN_W`-bit operand. A value that does not fit cannot be expressed on the interface and is
refused (20_memory.md R34; 93_implementation_defined.md U5). -/
def State.withField (s : State) (v : Nat) (access : State) : Result :=
  if s.cfg.fits v then .next access else .refused .operandNotExpressible

/-! The one exception. -/

/-- Taking InvalidLength: `STATE <- ERROR`, "Effect, all of it" (60_exceptions.md R92, R97). -/
def State.raiseInvalidLength (s : State) : State := { s with state := .error }

/-- CLR, the return from ERROR (and from DONE) to IDLE; nothing is restored because nothing was saved
(42_driver_and_commands.md R72, 60_exceptions.md R98). -/
def State.toIdle (s : State) : State := { s with state := .idle }

/-! Commands. -/

/-- An accepted ENC or DEC: `DIR <- d ; KS <- KEY ; IDX <- 0 ; STATE <- BUSY` (42_driver_and_commands.md R66). -/
def State.accept (s : State) (d : Direction) : State :=
  { s with dir := d, ks := s.key, idx := 0, state := .busy }

/-- START(d): the length check, then the accepted command (42_driver_and_commands.md R66). -/
def State.start (s : State) (d : Direction) : State :=
  if s.cfg.maxChars < s.len then s.raiseInvalidLength else s.accept d

/-- The dispatch of a command word behind the BUSY gate (42_driver_and_commands.md R66). -/
def State.dispatchCommand (s : State) (op : CommandWord) : State :=
  if op = 0b00#2 then s
  else if op = 0b01#2 then s.start .encrypt
  else if op = 0b10#2 then s.start .decrypt
  else s.toIdle

/-! The ENGINE. -/

/-- The assignments of a byte step, all together (42_driver_and_commands.md R70). -/
def State.processByte (s : State) : State :=
  let k := scramble s.ks
  let b := s.bufferByte .ibuf s.idx
  { s with obuf := s.obuf.write s.idx (rotateByte s.dir b k), ks := k, idx := s.idx + 1 }

/-- The completion step: `STATE <- DONE` (42_driver_and_commands.md R71). -/
def State.complete (s : State) : State := { s with state := .done }

/-- The byte step; it reaches only mapped bytes (20_memory.md R45). -/
def byteStep (s : State) : Result :=
  if s.idx < s.cfg.maxChars then .next s.processByte else .fault .indexOutOfRange

/-- One turn of the ENGINE: the byte step when `IDX < LEN`, the completion step when `IDX = LEN`, and outside BUSY
no step is enabled and nothing happens (42_driver_and_commands.md R70, R71; 93_implementation_defined.md U12). -/
def engineStep (s : State) : Result :=
  if s.state = .busy then
    if s.idx < s.len then byteStep s
    else if s.idx = s.len then .next s.complete
    else .fault .noEnabledStep
  else .next s

/-! RESET. -/

/-- RESET, in any STATE: the reset values, and every byte of both buffers unspecified anew (70_reset_and_hazards.md
R105). What the HOST has read and what it will still do are not the engine's and stay (log entry 14). -/
def State.takeReset (s : State) : State := State.afterReset s.cfg (s.resets + 1) s.replies s.events

/-! Which event is next. -/

/-- The next event and the state with that event taken off the order. When no event is left, the ENGINE moves if it
has an enabled step (weak fairness, 70_reset_and_hazards.md R109), else nothing happens (log entry 2). -/
def State.nextEvent (s : State) : Option Event × State :=
  match s.events with
  | e :: es => (some e, { s with events := es })
  | [] => (if s.state = .busy then some .engine else none, s)

end Sys2Proof.Machine
end

