-- ==== Sys2Proof/Machine/BufAccess.lean ====
section
/-! DEFINITION. The meanings of the BUF reads and writes (42_driver_and_commands.md R75, R81 to R83). -/

namespace Sys2Proof.Machine

/-- RD_IBUF: `IBUF[i]`, zero when `i >= MAX_CHARS` (R81). -/
def execRdIbuf (i : Nat) (s : State) : Result := s.withField i (s.answer (.byte (s.readBuffer .ibuf i)))

/-- RD_OBUF: `OBUF[i]`, zero when `i >= MAX_CHARS` (R82). -/
def execRdObuf (i : Nat) (s : State) : Result := s.withField i (s.answer (.byte (s.readBuffer .obuf i)))

/-- RD_UNMAPPED: space 0b11 reads as zero (R83). -/
def execRdUnmapped (i : Nat) (s : State) : Result := s.withField i (s.answer (.byte 0x00#8))

/-- WR_IBUF: `IBUF[i] <- v` unless BUSY or `i >= MAX_CHARS` (R75). -/
def execWrIbuf (i : Nat) (v : Byte) (s : State) : Result := s.withField i (s.gated (·.writeIbuf i v))

/-- WR_OBUF: read-only for the HOST, ignored (R83). -/
def execWrObuf (i : Nat) (_v : Byte) (s : State) : Result := s.withField i s.ignoreWrite

/-- WR_UNMAPPED: ignored (R83). -/
def execWrUnmapped (i : Nat) (_v : Byte) (s : State) : Result := s.withField i s.ignoreWrite

end Sys2Proof.Machine
end

