-- ==== Sys2Proof/Machine/Command.lean ====
section
/-! DEFINITION. The meanings of the four command words (42_driver_and_commands.md R67 to R69, R72), each as the
WR_CTRL that carries it: behind the BUSY gate. -/

namespace Sys2Proof.Machine

/-- NOP: no state changes, in any STATE (R67). -/
def execNop (s : State) : Result := .next (s.gated id)

/-- ENC: START(0) unless BUSY (R68). -/
def execEnc (s : State) : Result := .next (s.gated (·.start .encrypt))

/-- DEC: START(1) unless BUSY (R69). -/
def execDec (s : State) : Result := .next (s.gated (·.start .decrypt))

/-- CLR: `STATE <- IDLE` unless BUSY (R72). -/
def execClr (s : State) : Result := .next (s.gated (·.toIdle))

end Sys2Proof.Machine
end

