-- ==== Sys2Proof/Machine/RegRead.lean ====
section
/-! DEFINITION. The meanings of the REG reads (42_driver_and_commands.md R76 to R80, R83). -/

namespace Sys2Proof.Machine

/-- RD_CTRL: CTRL is write-only, the read returns `0b00` (10_state.md R16; R83). -/
def execRdCtrl (s : State) : Result := .next (s.answer (.ctrl 0b00#2))

/-- RD_STATUS: the byte `{0b00000, DIR, STATE}` (R76). -/
def execRdStatus (s : State) : Result := .next (s.answer (.byte s.status))

/-- RD_KEY: KEY (R77). -/
def execRdKey (s : State) : Result := .next (s.answer (.byte s.key))

/-- RD_LEN: LEN, `LEN_W` bits (R78). -/
def execRdLen (s : State) : Result := .next (s.answer (.count s.len))

/-- RD_KS: KS (R79). -/
def execRdKs (s : State) : Result := .next (s.answer (.byte s.ks))

/-- RD_IDX: IDX, `LEN_W` bits (R80). -/
def execRdIdx (s : State) : Result := .next (s.answer (.count s.idx))

/-- RD_REG6: unmapped, reads as zero (R83). -/
def execRdReg6 (s : State) : Result := .next (s.answer (.byte 0x00#8))

/-- RD_REG7: unmapped, reads as zero (R83). -/
def execRdReg7 (s : State) : Result := .next (s.answer (.byte 0x00#8))

end Sys2Proof.Machine
end

