-- ==== Sys2Proof/Machine/RegWrite.lean ====
section
/-! DEFINITION. The meanings of the REG writes (42_driver_and_commands.md R66, R73, R74, R83). -/

namespace Sys2Proof.Machine

/-- WR_CTRL: the gate, then the command word is delivered and nothing of it is kept (R66; 10_state.md R16). -/
def execWrCtrl (op : CommandWord) (s : State) : Result := .next (s.gated (·.dispatchCommand op))

/-- WR_STATUS: read-only, ignored (R83). -/
def execWrStatus (_v : Byte) (s : State) : Result := .next s.ignoreWrite

/-- WR_KEY: `KEY <- v` unless BUSY (R73). -/
def execWrKey (v : Byte) (s : State) : Result := .next (s.gated fun t => { t with key := v })

/-- WR_LEN: `LEN <- v` unless BUSY; the value is not checked here (R74). -/
def execWrLen (v : Nat) (s : State) : Result := s.withField v (s.gated fun t => { t with len := v })

/-- WR_KS: read-only, ignored (R83). -/
def execWrKs (_v : Byte) (s : State) : Result := .next s.ignoreWrite

/-- WR_IDX: read-only, ignored (R83). -/
def execWrIdx (v : Nat) (s : State) : Result := s.withField v s.ignoreWrite

/-- WR_REG6: unmapped, ignored (R83). -/
def execWrReg6 (_v : Byte) (s : State) : Result := .next s.ignoreWrite

/-- WR_REG7: unmapped, ignored (R83). -/
def execWrReg7 (_v : Byte) (s : State) : Result := .next s.ignoreWrite

end Sys2Proof.Machine
end

