-- ==== Sys2Proof/Machine/Dispatch.lean ====
section
/-! DEFINITION. One arm per constructor of Instr. -/

namespace Sys2Proof.Machine

def exec (i : Instr) (s : State) : Host.Outcome State Fault Refusal :=
  match i with
  | .rdCtrl => Sys2Proof.Machine.execRdCtrl s
  | .rdStatus => Sys2Proof.Machine.execRdStatus s
  | .rdKey => Sys2Proof.Machine.execRdKey s
  | .rdLen => Sys2Proof.Machine.execRdLen s
  | .rdKs => Sys2Proof.Machine.execRdKs s
  | .rdIdx => Sys2Proof.Machine.execRdIdx s
  | .rdReg6 => Sys2Proof.Machine.execRdReg6 s
  | .rdReg7 => Sys2Proof.Machine.execRdReg7 s
  | .wrCtrl op => Sys2Proof.Machine.execWrCtrl op s
  | .wrStatus v => Sys2Proof.Machine.execWrStatus v s
  | .wrKey v => Sys2Proof.Machine.execWrKey v s
  | .wrLen v => Sys2Proof.Machine.execWrLen v s
  | .wrKs v => Sys2Proof.Machine.execWrKs v s
  | .wrIdx v => Sys2Proof.Machine.execWrIdx v s
  | .wrReg6 v => Sys2Proof.Machine.execWrReg6 v s
  | .wrReg7 v => Sys2Proof.Machine.execWrReg7 v s
  | .rdIbuf a => Sys2Proof.Machine.execRdIbuf a s
  | .rdObuf a => Sys2Proof.Machine.execRdObuf a s
  | .rdUnmapped a => Sys2Proof.Machine.execRdUnmapped a s
  | .wrIbuf a v => Sys2Proof.Machine.execWrIbuf a v s
  | .wrObuf a v => Sys2Proof.Machine.execWrObuf a v s
  | .wrUnmapped a v => Sys2Proof.Machine.execWrUnmapped a v s
  | .nop => Sys2Proof.Machine.execNop s
  | .enc => Sys2Proof.Machine.execEnc s
  | .dec => Sys2Proof.Machine.execDec s
  | .clr => Sys2Proof.Machine.execClr s

end Sys2Proof.Machine
end

