-- ==== Sys2Proof/Machine/Step.lean ====
section
/-! DEFINITION. One step of the machine: the next event of the total order happens (20_memory.md R35, R39). -/

namespace Sys2Proof.Machine

/-- One step: a HOST request is decoded and executed, the ENGINE has its turn, RESET happens, or (no event left and
no ENGINE STEP enabled) nothing happens. -/
def step (s : State) : Host.Outcome State Fault Refusal :=
  match s.nextEvent with
  | (some (.host r), t) =>
    match decode t.cfg r with
    | .ok i => exec i t
    | .error e => .refused (.malformedTransaction e)
  | (some .engine, t) => engineStep t
  | (some .reset, t) => .next t.takeReset
  | (none, t) => .next t

/-- The state with the request of a table word placed as the very next event (log entries 2 and 9). -/
def State.withFetchWord (s : State) (nbits w : Nat) : State :=
  { s with events := .host (tableRequest s.cfg nbits w) :: s.events }

end Sys2Proof.Machine
end

