-- ==== Sys2Proof/Machine/HostProgram.lean ====
section
/-! DEFINITION. The pseudo-operations of host programs and their expansions (30_encoding.md R52), and a program as
the events of State that stand for it. -/

namespace Sys2Proof.Machine

/-- `CMD ...` is `WR CTRL, op` (R52). -/
def cmdOp (op : CommandWord) : List Instr := [.wrCtrl op]

/-- The writes of the bytes of LOAD, from index `i` on (R52). -/
def loadFrom : Nat → List Byte → List Instr
  | _, [] => []
  | i, b :: bs => .wrIbuf i b :: loadFrom (i + 1) bs

/-- `LOAD b0, ..., b(n-1)`: the bytes, then `WR LEN, n` (R52). -/
def loadOp (bytes : List Byte) : List Instr := loadFrom 0 bytes ++ [.wrLen bytes.length]

/-- `WAIT`, as the polls it took: `polls` reads of STATUS (R52). How many there are depends on how the ENGINE's steps
interleave with them (log entry 15). -/
def waitOp (polls : Nat) : List Instr := List.replicate polls .rdStatus

/-- `READOUT n` (R52). -/
def readoutOp (n : Nat) : List Instr := (List.range n).map .rdObuf

/-- The direction's command word (30_encoding.md R48). -/
def Direction.command : Direction → CommandWord
  | .encrypt => 0b01#2
  | .decrypt => 0b10#2

/-- What `ENCRYPT K, ...` and `DECRYPT K, ...` do before WAIT: write KEY, LOAD, and the command (R52). -/
def setupOp (d : Direction) (k : Byte) (bytes : List Byte) : List Instr :=
  .wrKey k :: (loadOp bytes ++ cmdOp d.command)

/-- `ENCRYPT K, b0, ...` (R52; the source's `encrypt`, R85), with the number of polls WAIT took. -/
def encryptOp (k : Byte) (bytes : List Byte) (polls : Nat) : List Instr :=
  setupOp .encrypt k bytes ++ waitOp polls ++ readoutOp bytes.length

/-- `DECRYPT K, b0, ...` (R52; the source's `decrypt`, R85), with the number of polls WAIT took. -/
def decryptOp (k : Byte) (bytes : List Byte) (polls : Nat) : List Instr :=
  setupOp .decrypt k bytes ++ waitOp polls ++ readoutOp bytes.length

/-- The request of one line of a HOST program. A line whose operand does not fit its field "cannot be expressed on
the interface" (20_memory.md R34). DESIGN CHOICE: it stands for the empty bit string, which the decoder refuses, so
that no operand is cut to its low bits (log entry 17). -/
def hostRequest (c : Config) (i : Instr) : Request :=
  if i.wellFormed c then encode c i else .transaction []

/-- A HOST program as events, one after the other. -/
def programEvents (c : Config) (p : List Instr) : List Event := p.map fun i => .host (hostRequest c i)

end Sys2Proof.Machine
end

