-- ==== Sys2Proof/Safety.lean ====
section
/-! DEFINITION. The invariants of the state (10_state.md R28), what the HOST can express, and what a safe run is. -/

namespace Sys2Proof

/-- The write transactions and the command words: what the BUSY gate covers (20_memory.md R40). -/
def Instr.isWrite : Instr → Bool
  | .rdCtrl | .rdStatus | .rdKey | .rdLen | .rdKs | .rdIdx | .rdReg6 | .rdReg7 => false
  | .rdIbuf _ | .rdObuf _ | .rdUnmapped _ => false
  | .wrCtrl _ | .wrStatus _ | .wrKey _ | .wrLen _ | .wrKs _ | .wrIdx _ | .wrReg6 _ | .wrReg7 _ => true
  | .wrIbuf _ _ | .wrObuf _ _ | .wrUnmapped _ _ => true
  | .nop | .enc | .dec | .clr => true

/-- An ENC or DEC command, alone or carried by WR_CTRL (30_encoding.md R48), and its direction. -/
def Instr.starts : Instr → Option Machine.Direction
  | .enc => some .encrypt
  | .dec => some .decrypt
  | .wrCtrl op => if op = 0b01#2 then some .encrypt else if op = 0b10#2 then some .decrypt else none
  | .rdCtrl | .rdStatus | .rdKey | .rdLen | .rdKs | .rdIdx | .rdReg6 | .rdReg7 => none
  | .rdIbuf _ | .rdObuf _ | .rdUnmapped _ => none
  | .wrStatus _ | .wrKey _ | .wrLen _ | .wrKs _ | .wrIdx _ | .wrReg6 _ | .wrReg7 _ => none
  | .wrIbuf _ _ | .wrObuf _ _ | .wrUnmapped _ _ => none
  | .nop | .clr => none

end Sys2Proof

namespace Sys2Proof.Machine

/-- The invariants of 10_state.md R28 that one state can show, with the bounds of the registers (R19, R21) and the
form of the two buffers (R22, R23). -/
structure State.Inv (s : State) : Prop where
  /-- The parameters meet their constraints (00_scope.md R5, R6). -/
  cfg_wf : s.cfg.wf
  /-- LEN is a `LEN_W`-bit value (R19). -/
  len_fits : s.cfg.fits s.len
  /-- IDX never passes MAX_CHARS (R21). -/
  idx_le : s.idx ≤ s.cfg.maxChars
  /-- IBUF has its canonical form. -/
  ibuf_wf : s.ibuf.wf
  /-- IBUF has mapped locations only (R22). -/
  ibuf_mapped : ∀ c ∈ s.ibuf, c.1 < s.cfg.maxChars
  /-- OBUF has its canonical form. -/
  obuf_wf : s.obuf.wf
  /-- OBUF has mapped locations only (R23). -/
  obuf_mapped : ∀ c ∈ s.obuf, c.1 < s.cfg.maxChars
  /-- R28 (a): BUSY implies `LEN <= MAX_CHARS` and `IDX <= LEN`. -/
  busy_bounds : s.state = .busy → s.len ≤ s.cfg.maxChars ∧ s.idx ≤ s.len
  /-- R28 (b) and (d) while BUSY: KS is SCRAMBLE applied IDX times to KEY. -/
  busy_key : s.state = .busy → s.ks = keyAfter s.key s.idx

/-- Can the interface carry this event? A HOST request must decode; ENGINE turns and RESET always can happen. -/
def Event.expressible (c : Config) : Event → Bool
  | .host r =>
    match decode c r with
    | .ok _ => true
    | .error _ => false
  | .engine => true
  | .reset => true

/-! What the next step is, for the rules that say which events may change a piece of state. -/

/-- The next event is the HOST issuing instruction `i`. -/
def State.hostIssues (s : State) (i : Instr) : Prop :=
  ∃ r es, s.events = .host r :: es ∧ decode s.cfg r = .ok i

/-- The next event is an ENC or DEC that is accepted, in direction `d` (70_reset_and_hazards.md R108). -/
def State.acceptsNext (s : State) (d : Direction) : Prop :=
  s.state ≠ .busy ∧ s.len ≤ s.cfg.maxChars ∧ ∃ i, s.hostIssues i ∧ i.starts = some d

/-- The next event is an ENC or DEC that is rejected with InvalidLength (60_exceptions.md R92). -/
def State.rejectsNext (s : State) : Prop :=
  s.state ≠ .busy ∧ s.cfg.maxChars < s.len ∧ ∃ i d, s.hostIssues i ∧ i.starts = some d

/-- The next event is a CLR outside BUSY (42_driver_and_commands.md R72). -/
def State.clearsNext (s : State) : Prop :=
  s.state ≠ .busy ∧ (s.hostIssues .clr ∨ s.hostIssues (.wrCtrl 0b11#2))

/-- The next event is the ENGINE's, in BUSY. -/
def State.engineNext (s : State) : Prop :=
  s.state = .busy ∧ (s.events = [] ∨ ∃ es, s.events = .engine :: es)

/-- The next event is RESET. -/
def State.resetNext (s : State) : Prop := ∃ es, s.events = .reset :: es

/-- `k` steps of the machine, stopping at the first fault or refusal. -/
def runSteps (k : Nat) (s : State) : Result := Host.Core.run Sys2Proof.core k s

/-- A safe run: it never stops, with a fault or with a refusal. -/
def State.Safe (s : State) : Prop := ∀ k, ∃ t, runSteps k s = .next t

end Sys2Proof.Machine
end

