-- ==== Sys2Proof/Certificates/Slice0/Obligations.lean ====
section
/-! DEFINITION. The statements for the provers. Each docstring names the rule of
spec/ its statement formalises, or the log entry of a choice of the model it rests on. -/

open Sys2Proof Sys2Proof.Machine

/-! ## Encoding -/

/-- Words written out bit by bit from the header map and the command words (30_encoding.md R46 to R48), with
`LEN_W = 8`; the order of the bits is the model's (log entry 8). -/
def Obligations.WrittenWordsDecode : Prop :=
  let c : Config := ⟨8, 8⟩
  let o := false
  let l := true
  decode c (.transaction [o, o, o, o, o, l]) = .ok .rdStatus ∧
  decode c (.transaction [o, o, o, l, o, o]) = .ok .rdKs ∧
  decode c (.transaction [l, o, o, o, o, o, o, l]) = .ok (.wrCtrl 0b01#2) ∧
  decode c (.transaction [l, o, o, o, l, o, o, l, l, l, o, l, o, o]) = .ok (.wrKey 0x74#8) ∧
  decode c (.transaction [l, o, o, o, l, l, o, o, o, o, l, o, o, l]) = .ok (.wrLen 9) ∧
  decode c (.transaction [o, l, o, o, o, o, o, o, o, l, o]) = .ok (.rdObuf 2) ∧
  decode c (.transaction [l, o, l, o, o, o, o, o, l, l, l, l, l, l, o, l, l, l, o]) = .ok (.wrIbuf 7 0xEE#8) ∧
  decode c (.command 0b01#2) = .ok .enc ∧ decode c (.command 0b10#2) = .ok .dec ∧
  decode c (.command 0b00#2) = .ok .nop ∧ decode c (.command 0b11#2) = .ok .clr

/-- Decoding the encoding of a well-formed instruction gives it back, for every instruction and every `LEN_W`
(30_encoding.md R46 to R48). The order of the fields and the data width of the unmapped writes are the model's choice
(log entries 8 and 16). -/
def Obligations.DecodeEncode : Prop :=
  ∀ (c : Config) (i : Instr), i.wellFormed c = true → decode c (encode c i) = .ok i

/-- What decodes is well formed and is the encoding of what it decodes to: no two requests mean the same
instruction (30_encoding.md R46 to R48). The order of the fields and the data width of the unmapped writes are the
model's choice (log entries 8 and 16). -/
def Obligations.EncodeDecode : Prop :=
  ∀ (c : Config) (r : Request) (i : Instr), decode c r = .ok i → i.wellFormed c = true ∧ encode c i = r

/-- "There is no illegal encoding": every REG header with `space = 0b00`, every BUF header with another `space` and
every command word decodes, with any operand bits of the right number (30_encoding.md R47, R48, R51). That this number
is 8 for the data of a write to register 6, register 7 or space 0b11 is the model's choice (log entry 16). -/
def Obligations.EveryHeaderDecodes : Prop :=
  ∀ c : Config,
    (∀ (h : Nat) (operand : List Bool), h < 64 → h / 8 % 4 = 0 → operand.length = regDataBits c h →
      ∃ i, decode c (.transaction (regHeader h ++ operand)) = .ok i) ∧
    (∀ (h : Nat) (operand : List Bool), h < 8 → h % 4 ≠ 0 → operand.length = bufOperandBits c h →
      ∃ i, decode c (.transaction (bufHeader h ++ operand)) = .ok i) ∧
    (∀ op : CommandWord, ∃ i, decode c (.command op) = .ok i)

/-! ## The step -/

/-- A step runs the instruction its request decodes to, at the state with that request taken off the order. -/
def Obligations.StepRunsDecodedRequest : Prop :=
  ∀ (s : State) (r : Request) (es : List Event) (i : Instr),
    s.events = .host r :: es → decode s.cfg r = .ok i → step s = exec i { s with events := es }

/-- `withFetchWord` places its table word as the very next event and changes nothing else. That a table word is read
by its width is the model's choice (log entry 9), and so is that it is placed as the next item of the event list (log
entry 2); the spec gives only the bits of the header (30_encoding.md R46) and places no word. -/
def Obligations.FetchWordRunsNext : Prop :=
  ∀ (s : State) (nbits w : Nat) (i : Instr),
    decode s.cfg (tableRequest s.cfg nbits w) = .ok i → step (s.withFetchWord nbits w) = exec i s

/-- The other three things a step can be: an ENGINE turn, RESET, and, with no event left, the ENGINE's turn in BUSY
and nothing otherwise (the model's choice, log entry 2). -/
def Obligations.StepWithoutHost : Prop :=
  (∀ (s : State) (es : List Event), s.events = .engine :: es → step s = engineStep { s with events := es }) ∧
  (∀ (s : State) (es : List Event), s.events = .reset :: es →
    step s = .next (State.takeReset { s with events := es })) ∧
  (∀ s : State, s.events = [] → s.state = .busy → step s = engineStep s) ∧
  (∀ s : State, s.events = [] → s.state ≠ .busy → step s = .next s)

/-! ## Reset -/

/-- The reset value of every piece of state, in every configuration, and what a command right after RESET does
(70_reset_and_hazards.md R106); an unwritten buffer byte is the free value (log entry 4). -/
def Obligations.ResetValues : Prop :=
  ∀ (c : Config) (n : Nat) (rs : List Reply) (es : List Event),
    let s := State.afterReset c n rs es
    s.state = .idle ∧ s.dir = .encrypt ∧ s.status = 0x00#8 ∧ s.key = 0x00#8 ∧ s.len = 0 ∧ s.ks = 0x00#8 ∧ s.idx = 0 ∧
    exec .rdCtrl s = .next { s with replies := rs ++ [.ctrl 0b00#2] } ∧
    (∀ (b : Buffer) (i : Nat), s.bufferByte b i = Config.unspecifiedByte n b i) ∧
    engineStep s = .next s ∧
    exec .enc s = .next { s with state := .busy } ∧
    engineStep { s with state := .busy } = .next { s with state := .done }

/-- RESET in any STATE, BUSY included: the control state takes its reset values and every byte of both buffers is
unspecified anew, whatever was written before; what the HOST has read and still will do stays (log entry 14)
(70_reset_and_hazards.md R105). -/
def Obligations.ResetFromAnyState : Prop :=
  ∀ (s : State) (es : List Event), s.events = .reset :: es →
    ∃ t, step s = .next t ∧
      t.state = .idle ∧ t.dir = .encrypt ∧ t.key = 0x00#8 ∧ t.len = 0 ∧ t.ks = 0x00#8 ∧ t.idx = 0 ∧
      (∀ (b : Buffer) (i : Nat), t.bufferByte b i = Config.unspecifiedByte (s.resets + 1) b i) ∧
      t.cfg = s.cfg ∧ t.resets = s.resets + 1 ∧ t.replies = s.replies ∧ t.events = es

/-! ## Host reads -/

/-- RD_STATUS answers `{0b00000, DIR, STATE}` in every STATE and changes no state; the table of STATUS values; bits
7:3 read as zero; DIR is `op[1]` of an accepted ENC or DEC (30_encoding.md R49; 42_driver_and_commands.md R76). -/
def Obligations.StatusRead : Prop :=
  (∀ s : State, exec .rdStatus s = .next { s with replies := s.replies ++ [.byte s.status] }) ∧
  (∀ s : State,
    (s.state = .idle → s.dir = .encrypt → s.status = 0x00#8) ∧ (s.state = .idle → s.dir = .decrypt → s.status = 0x04#8) ∧
    (s.state = .busy → s.dir = .encrypt → s.status = 0x01#8) ∧ (s.state = .busy → s.dir = .decrypt → s.status = 0x05#8) ∧
    (s.state = .done → s.dir = .encrypt → s.status = 0x02#8) ∧ (s.state = .done → s.dir = .decrypt → s.status = 0x06#8) ∧
    (s.state = .error → s.dir = .encrypt → s.status = 0x03#8) ∧
    (s.state = .error → s.dir = .decrypt → s.status = 0x07#8) ∧
    s.status.extractLsb' 3 5 = 0b00000#5) ∧
  (∀ (op : CommandWord) (d : Direction), (Instr.wrCtrl op).starts = some d → d.code = op.extractLsb' 1 1)

/-- RD_KEY, RD_LEN, RD_KS and RD_IDX answer the current value in every STATE and change no state; LEN and IDX answer
`LEN_W` bits (42_driver_and_commands.md R77 to R80). -/
def Obligations.RegisterReads : Prop :=
  ∀ s : State,
    exec .rdKey s = .next { s with replies := s.replies ++ [.byte s.key] } ∧
    exec .rdLen s = .next { s with replies := s.replies ++ [.count s.len] } ∧
    exec .rdKs s = .next { s with replies := s.replies ++ [.byte s.ks] } ∧
    exec .rdIdx s = .next { s with replies := s.replies ++ [.count s.idx] } ∧
    (s.Inv → s.len < 2 ^ s.cfg.lenW ∧ s.idx < 2 ^ s.cfg.lenW)

/-- RD_IBUF and RD_OBUF answer byte `i` when it is mapped and zero otherwise, in every STATE, and change no state.
The byte is the one written last, or the free value of a byte not written since RESET (log entry 4)
(42_driver_and_commands.md R81, R82). -/
def Obligations.BufferReads : Prop :=
  ∀ (s : State) (i : Nat), i < 2 ^ s.cfg.lenW →
    exec (.rdIbuf i) s = .next { s with replies := s.replies ++
      [.byte (if i < s.cfg.maxChars then (s.ibuf.read? i).getD (Config.unspecifiedByte s.resets .ibuf i) else 0x00#8)] } ∧
    exec (.rdObuf i) s = .next { s with replies := s.replies ++
      [.byte (if i < s.cfg.maxChars then (s.obuf.read? i).getD (Config.unspecifiedByte s.resets .obuf i) else 0x00#8)] }

/-- The RAZ/WI transactions: each read answers zero (2 bits for CTRL, 8 bits for the others), each write is ignored,
none changes any state in any STATE (20_memory.md R33; 42_driver_and_commands.md R83). -/
def Obligations.ReadAsZeroWriteIgnored : Prop :=
  ∀ (s : State) (v : Byte) (n : Nat), n < 2 ^ s.cfg.lenW →
    exec .rdCtrl s = .next { s with replies := s.replies ++ [.ctrl 0b00#2] } ∧
    exec .rdReg6 s = .next { s with replies := s.replies ++ [.byte 0x00#8] } ∧
    exec .rdReg7 s = .next { s with replies := s.replies ++ [.byte 0x00#8] } ∧
    exec (.rdUnmapped n) s = .next { s with replies := s.replies ++ [.byte 0x00#8] } ∧
    exec (.wrStatus v) s = .next s ∧ exec (.wrKs v) s = .next s ∧ exec (.wrIdx n) s = .next s ∧
    exec (.wrReg6 v) s = .next s ∧ exec (.wrReg7 v) s = .next s ∧
    exec (.wrObuf n v) s = .next s ∧ exec (.wrUnmapped n v) s = .next s ∧
    (s.cfg.maxChars ≤ n →
      exec (.rdIbuf n) s = .next { s with replies := s.replies ++ [.byte 0x00#8] } ∧
      exec (.rdObuf n) s = .next { s with replies := s.replies ++ [.byte 0x00#8] } ∧
      exec (.wrIbuf n v) s = .next s)

/-- "No read has a side effect": a read that answers changes no state, and the same read again, with no event
between, answers the same value; for a buffer byte not written since RESET the second part is not claimed
(20_memory.md R36). -/
def Obligations.ReadsHaveNoSideEffect : Prop :=
  ∀ (s t : State) (i : Instr), i.isWrite = false → exec i s = .next t →
    ∃ r, t = { s with replies := s.replies ++ [r] } ∧
      ((∀ a, i = .rdIbuf a → a < s.cfg.maxChars → s.ibuf.read? a ≠ none) →
       (∀ a, i = .rdObuf a → a < s.cfg.maxChars → s.obuf.read? a ≠ none) →
        exec i t = .next { t with replies := t.replies ++ [r] })

/-! ## Host writes -/

/-- WR_KEY: `if STATE != BUSY: KEY <- v`, nothing else, and KS is not changed (42_driver_and_commands.md R73). -/
def Obligations.WriteKey : Prop :=
  ∀ (s : State) (v : Byte),
    (s.state ≠ .busy → exec (.wrKey v) s = .next { s with key := v }) ∧
    (s.state = .busy → exec (.wrKey v) s = .next s)

/-- WR_LEN: `if STATE != BUSY: LEN <- v`, with no error even when `v > MAX_CHARS`, and IDX and OBUF unchanged
(42_driver_and_commands.md R74). -/
def Obligations.WriteLen : Prop :=
  ∀ (s : State) (v : Nat), v < 2 ^ s.cfg.lenW →
    (s.state ≠ .busy → exec (.wrLen v) s = .next { s with len := v }) ∧
    (s.state = .busy → exec (.wrLen v) s = .next s)

/-- WR_IBUF: outside BUSY and at a mapped index the byte reads as written, every other byte of IBUF and every byte of
OBUF reads as before, and nothing else changes; in BUSY or at an unmapped index nothing changes
(42_driver_and_commands.md R75; 20_memory.md R30). -/
def Obligations.WriteIbuf : Prop :=
  ∀ (s : State) (i : Nat) (v : Byte), i < 2 ^ s.cfg.lenW →
    (s.state ≠ .busy → i < s.cfg.maxChars →
      ∃ t, exec (.wrIbuf i v) s = .next t ∧
        t.bufferByte .ibuf i = v ∧
        (∀ a, a ≠ i → t.bufferByte .ibuf a = s.bufferByte .ibuf a) ∧
        (∀ a, t.bufferByte .obuf a = s.bufferByte .obuf a) ∧
        t = { s with ibuf := t.ibuf }) ∧
    (s.state = .busy ∨ s.cfg.maxChars ≤ i → exec (.wrIbuf i v) s = .next s)

/-- The BUSY write gate: while BUSY every HOST write, to any location, CTRL and the command words included, changes
nothing; a read is never gated (it answers the same value in every STATE, but for STATUS, which shows STATE); and
BUSY ends only by the completion step or by RESET (20_memory.md R40). -/
def Obligations.BusyGate : Prop :=
  (∀ (s : State) (i : Instr), s.state = .busy → i.wellFormed s.cfg = true → i.isWrite = true → exec i s = .next s) ∧
  (∀ (s : State) (i : Instr), i.wellFormed s.cfg = true → i.isWrite = false → i ≠ .rdStatus →
    ∃ r, ∀ e : EngineState,
      exec i { s with state := e } = .next { s with state := e, replies := s.replies ++ [r] }) ∧
  (∀ s t : State, s.state = .busy → step s = .next t → t.state ≠ .busy →
    (s.engineNext ∧ s.idx = s.len ∧ t.state = .done) ∨ (s.resetNext ∧ t.state = .idle))

/-- A `LEN_W`-bit operand that does not fit "cannot be expressed on the interface" (20_memory.md R34). What a meaning
that is given one answers is the model's choice (log entry 7): it is refused by the name `operandNotExpressible`, as
93_implementation_defined.md U5 has `refuse` for a value outside the byte range. -/
def Obligations.TooWideOperandRefused : Prop :=
  ∀ (s : State) (n : Nat) (v : Byte), 2 ^ s.cfg.lenW ≤ n →
    exec (.wrLen n) s = .refused .operandNotExpressible ∧ exec (.wrIdx n) s = .refused .operandNotExpressible ∧
    exec (.rdIbuf n) s = .refused .operandNotExpressible ∧ exec (.rdObuf n) s = .refused .operandNotExpressible ∧
    exec (.rdUnmapped n) s = .refused .operandNotExpressible ∧
    exec (.wrIbuf n v) s = .refused .operandNotExpressible ∧ exec (.wrObuf n v) s = .refused .operandNotExpressible ∧
    exec (.wrUnmapped n v) s = .refused .operandNotExpressible

/-! ## Commands -/

/-- WR_CTRL: the gate first, then the command word, then for ENC and DEC the length check, with the whole effect of
each case (42_driver_and_commands.md R66; the order of checks, 60_exceptions.md R96). -/
def Obligations.WriteCtrlDispatches : Prop :=
  ∀ (s : State) (op : CommandWord),
    (s.state = .busy → exec (.wrCtrl op) s = .next s) ∧
    (s.state ≠ .busy → op = 0b00#2 → exec (.wrCtrl op) s = .next s) ∧
    (s.state ≠ .busy → op = 0b01#2 → s.len ≤ s.cfg.maxChars →
      exec (.wrCtrl op) s = .next { s with dir := .encrypt, ks := s.key, idx := 0, state := .busy }) ∧
    (s.state ≠ .busy → op = 0b10#2 → s.len ≤ s.cfg.maxChars →
      exec (.wrCtrl op) s = .next { s with dir := .decrypt, ks := s.key, idx := 0, state := .busy }) ∧
    (s.state ≠ .busy → (op = 0b01#2 ∨ op = 0b10#2) → s.cfg.maxChars < s.len →
      exec (.wrCtrl op) s = .next { s with state := .error }) ∧
    (s.state ≠ .busy → op = 0b11#2 → exec (.wrCtrl op) s = .next { s with state := .idle })

/-- A command word acts as the WR_CTRL that carries it (30_encoding.md R48, R52; log entry 10). -/
def Obligations.CommandActsAsItsWriteCtrl : Prop :=
  ∀ (s : State) (op : CommandWord), exec (decodeCommand op) s = exec (.wrCtrl op) s

/-- NOP changes no state, in any STATE and whatever LEN (42_driver_and_commands.md R67). -/
def Obligations.NopChangesNothing : Prop := ∀ s : State, exec .nop s = .next s

/-- ENC and DEC with `LEN <= MAX_CHARS` outside BUSY, from IDLE, DONE and ERROR alike: DIR, KS from KEY, IDX 0, STATE
BUSY, and nothing else changes (42_driver_and_commands.md R68, R69). -/
def Obligations.StartCommandsAccepted : Prop :=
  ∀ s : State, s.state ≠ .busy → s.len ≤ s.cfg.maxChars →
    exec .enc s = .next { s with dir := .encrypt, ks := s.key, idx := 0, state := .busy } ∧
    exec .dec s = .next { s with dir := .decrypt, ks := s.key, idx := 0, state := .busy }

/-- InvalidLength: an ENC or DEC outside BUSY with `LEN > MAX_CHARS` sets STATE to ERROR and changes nothing else; the
very next RD_STATUS shows ERROR; the ENGINE has no enabled step there; and no other event ever sets ERROR
(60_exceptions.md R92). -/
def Obligations.InvalidLength : Prop :=
  (∀ s : State, s.state ≠ .busy → s.cfg.maxChars < s.len →
    exec .enc s = .next { s with state := .error } ∧ exec .dec s = .next { s with state := .error } ∧
    exec (.wrCtrl 0b01#2) s = .next { s with state := .error } ∧
    exec (.wrCtrl 0b10#2) s = .next { s with state := .error }) ∧
  (∀ s : State, s.state = .error → s.status.extractLsb' 0 2 = 0b11#2 ∧ engineStep s = .next s) ∧
  (∀ s t : State, step s = .next t → s.state ≠ .error → t.state = .error →
    s.rejectsNext ∧ ∃ es, t = { s with state := .error, events := es })

/-- CLR outside BUSY sets STATE to IDLE and changes nothing else; in BUSY it changes nothing
(42_driver_and_commands.md R72). -/
def Obligations.ClearSetsIdle : Prop :=
  ∀ s : State,
    (s.state ≠ .busy → exec .clr s = .next { s with state := .idle }) ∧
    (s.state = .busy → exec .clr s = .next s)

/-- ERROR is left in exactly three ways: CLR, an accepted ENC or DEC, RESET; a second rejected command leaves the same
state as the first (60_exceptions.md R98). -/
def Obligations.ErrorIsLeftInThreeWays : Prop :=
  (∀ s t : State, s.state = .error → step s = .next t → t.state ≠ .error →
    (s.clearsNext ∧ t.state = .idle) ∨ ((∃ d, s.acceptsNext d) ∧ t.state = .busy) ∨
      (s.resetNext ∧ t.state = .idle)) ∧
  (∀ s : State, s.state = .error → s.cfg.maxChars < s.len → exec .enc s = .next s ∧ exec .dec s = .next s)

/-! ## The ENGINE -/

/-- The byte step: `k = SCRAMBLE(KS)`, OBUF[IDX] is IBUF[IDX] rotated by `k mod 8`, left for DIR 0 and right for DIR 1,
KS is `k`, IDX is one more and still fits its register; every other byte of OBUF, every byte of IBUF and everything
else is unchanged (42_driver_and_commands.md R70; 30_encoding.md R50). -/
def Obligations.ByteStep : Prop :=
  ∀ s : State, s.Inv → s.state = .busy → s.idx < s.len →
    ∃ t, engineStep s = .next t ∧
      t.ks = scramble s.ks ∧ t.idx = s.idx + 1 ∧ t.idx < 2 ^ t.cfg.lenW ∧
      (s.dir = .encrypt →
        t.bufferByte .obuf s.idx = rotl8 (s.bufferByte .ibuf s.idx) ((scramble s.ks).toNat % 8)) ∧
      (s.dir = .decrypt →
        t.bufferByte .obuf s.idx = rotr8 (s.bufferByte .ibuf s.idx) ((scramble s.ks).toNat % 8)) ∧
      (∀ a, a ≠ s.idx → t.bufferByte .obuf a = s.bufferByte .obuf a) ∧
      (∀ a, t.bufferByte .ibuf a = s.bufferByte .ibuf a) ∧
      t = { s with obuf := t.obuf, ks := t.ks, idx := t.idx }

/-- The completion step sets STATE to DONE and changes nothing else; outside BUSY the ENGINE has no enabled step and
its turn changes nothing (42_driver_and_commands.md R71; 93_implementation_defined.md U12). -/
def Obligations.CompletionStep : Prop :=
  (∀ s : State, s.state = .busy → s.idx = s.len → engineStep s = .next { s with state := .done }) ∧
  (∀ s : State, s.state ≠ .busy → engineStep s = .next s)

/-- With no event left a run in progress finishes after exactly `LEN - IDX + 1` ENGINE STEPs and is BUSY until the
last of them (42_driver_and_commands.md R71; weak fairness, 70_reset_and_hazards.md R109, in the form of log
entry 2). -/
def Obligations.RunFinishes : Prop :=
  ∀ s : State, s.Inv → s.state = .busy → s.events = [] →
    (∀ k, k ≤ s.len - s.idx → ∃ t, runSteps k s = .next t ∧ t.state = .busy ∧ t.idx = s.idx + k) ∧
    ∃ t, runSteps (s.len - s.idx + 1) s = .next t ∧ t.state = .done ∧ t.idx = s.len

/-! ## The datapath -/

/-- `rotl8` is the spec's shift formula, moves bit `i` to bit `(i + m) mod 8` with `m = n mod 8`, and is rotating left by one, `n` times
(00_scope.md R9). -/
def Obligations.RotateLeft : Prop :=
  ∀ (v : Byte) (n : Nat),
    (rotl8 v n).toNat = ((v.toNat <<< (n % 8)) ||| (v.toNat >>> (8 - n % 8))) &&& 0xFF ∧
    (∀ i, i < 8 → (rotl8 v n).getLsbD ((i + n % 8) % 8) = v.getLsbD i) ∧
    rotl8 v n = (fun w => rotl8 w 1)^[n] v

/-- `rotr8` is the spec's shift formula, moves bit `i` to bit `(i - m) mod 8`, inverts `rotl8` on both sides, and is a left rotation by
`(8 - (n mod 8)) mod 8` (00_scope.md R10). -/
def Obligations.RotateRight : Prop :=
  ∀ (v : Byte) (n : Nat),
    (rotr8 v n).toNat = ((v.toNat >>> (n % 8)) ||| (v.toNat <<< (8 - n % 8))) &&& 0xFF ∧
    (∀ i, i < 8 → (rotr8 v n).getLsbD ((i + 8 - n % 8) % 8) = v.getLsbD i) ∧
    rotr8 (rotl8 v n) n = v ∧ rotl8 (rotr8 v n) n = v ∧ rotr8 v n = rotl8 v ((8 - n % 8) % 8)

/-- SCRAMBLE, bit by bit and as the source's formula, with its corner cases and the source's worked example
(40_key_scrambler.md R53). -/
def Obligations.ScrambleFormula : Prop :=
  (∀ key : Byte,
    scramble key = rotl8 key 5 ||| 0x04#8 ∧
    (scramble key).toNat = (((key.toNat <<< 5) ||| (key.toNat >>> 3)) &&& 0xFF) ||| 0x04 ∧
    (scramble key).getLsbD 7 = key.getLsbD 2 ∧ (scramble key).getLsbD 6 = key.getLsbD 1 ∧
    (scramble key).getLsbD 5 = key.getLsbD 0 ∧ (scramble key).getLsbD 4 = key.getLsbD 7 ∧
    (scramble key).getLsbD 3 = key.getLsbD 6 ∧ (scramble key).getLsbD 2 = true ∧
    (scramble key).getLsbD 1 = key.getLsbD 4 ∧ (scramble key).getLsbD 0 = key.getLsbD 3) ∧
  scramble 0x00#8 = 0x04#8 ∧ scramble 0xFF#8 = 0xFF#8 ∧ scramble 0x20#8 = 0x04#8 ∧ scramble 0x01#8 = 0x24#8

/-- One application of SCRAMBLE: bit 2 is set, the rotator's count is `4 + 2*b4 + b3`, the only collisions are the
pairs that differ in bit 5, and the image is the bytes with bit 2 set (40_key_scrambler.md R57). -/
def Obligations.ScrambleProperties : Prop :=
  ∀ key key' y : Byte,
    (scramble key).getLsbD 2 = true ∧
    rotationCount (scramble key) = 4 + 2 * (key.getLsbD 4).toNat + (key.getLsbD 3).toNat ∧
    (scramble key = scramble key' ↔ key' = key ∨ key' = key ^^^ 0x20#8) ∧
    ((∃ k, scramble k = y) ↔ y.getLsbD 2 = true)

/-- The key stream reaches 0xFF after at most eight applications and stays there, so that from byte index 7 on the
count is 7; 0xFF is the only fixed point and the only cycle (40_key_scrambler.md R58). -/
def Obligations.KeyStreamConverges : Prop :=
  ∀ (k : Byte) (n : Nat),
    (8 ≤ n → keyAfter k n = 0xFF#8) ∧
    (7 ≤ n → rotationCount (keyAfter k (n + 1)) = 7) ∧
    (0 < n → keyAfter k n = k → k = 0xFF#8)

/-- ENC_ONE and DEC_ONE rotate by the key modulo 8, left and right; the upper five bits of the key do not matter; each
inverts the other under the same key (41_byte_rotator.md R60 to R62). -/
def Obligations.ByteRotatorInverse : Prop :=
  ∀ p k : Byte,
    encOne p k = rotl8 p (k.toNat % 8) ∧ decOne p k = rotr8 p (k.toNat % 8) ∧
    decOne (encOne p k) k = p ∧ encOne (decOne p k) k = p ∧
    Function.Bijective (fun b => encOne b k) ∧ Function.Bijective (fun b => decOne b k)

/-- TRANSFORM: the output has length `n`, its byte `i` is `S[i]` rotated by `K(i+1) mod 8` (left for Encrypt, right
for Decrypt), and the final key is `K(n)` (42_driver_and_commands.md R65). -/
def Obligations.TransformBytes : Prop :=
  ∀ (S : List Byte) (n : Nat) (k0 : Byte), n ≤ S.length →
    (∀ d, (transform S n k0 d).1.length = n ∧ (transform S n k0 d).2 = keyAfter k0 n) ∧
    (∀ i b, i < n → S[i]? = some b →
      (transform S n k0 .encrypt).1[i]? = some (rotl8 b ((keyAfter k0 (i + 1)).toNat % 8)) ∧
      (transform S n k0 .decrypt).1[i]? = some (rotr8 b ((keyAfter k0 (i + 1)).toNat % 8)))

/-- Round trip: decrypting what was encrypted with the same key restores it, the final key is that of the encryption,
and the same holds with the directions exchanged (42_driver_and_commands.md R86). -/
def Obligations.TransformRoundTrip : Prop :=
  ∀ (S : List Byte) (n : Nat) (k0 : Byte), n ≤ S.length →
    transform (transform S n k0 .encrypt).1 n k0 .decrypt = (S.take n, keyAfter k0 n) ∧
    transform (transform S n k0 .decrypt).1 n k0 .encrypt = (S.take n, keyAfter k0 n)

/-- The key stream is independent of the data and of the direction: for every prefix length the key after it is the
same (42_driver_and_commands.md R88). -/
def Obligations.KeyIndependentOfData : Prop :=
  ∀ (S S' : List Byte) (n : Nat) (k0 : Byte) (d d' : Direction), n ≤ S.length → n ≤ S'.length →
    ∀ j, j ≤ n → (transform S j k0 d).2 = (transform S' j k0 d').2

/-- Chaining: `S1` from `K0` and then `S2` from the final key is `S1 ++ S2` from `K0`, output and final key, in either
direction (42_driver_and_commands.md R90). -/
def Obligations.TransformChaining : Prop :=
  ∀ (S1 S2 : List Byte) (k0 : Byte) (d : Direction),
    transform (S1 ++ S2) (S1.length + S2.length) k0 d =
      ((transform S1 S1.length k0 d).1 ++ (transform S2 S2.length (transform S1 S1.length k0 d).2 d).1,
        (transform S2 S2.length (transform S1 S1.length k0 d).2 d).2)

/-- The empty input: TRANSFORM answers the empty sequence and the key itself; on the hardware an accepted command with
`LEN = 0` and then one ENGINE turn give DONE with `KS = KEY` and no buffer byte touched (42_driver_and_commands.md
R89). -/
def Obligations.EmptyInput : Prop :=
  (∀ (S : List Byte) (k0 : Byte) (d : Direction), transform S 0 k0 d = ([], k0)) ∧
  (∀ s : State, s.state ≠ .busy → s.len = 0 → ∃ t, exec .enc s = .next t ∧
    engineStep t = .next { s with dir := .encrypt, ks := s.key, idx := 0, state := .done }) ∧
  (∀ s : State, s.state ≠ .busy → s.len = 0 → ∃ t, exec .dec s = .next t ∧
    engineStep t = .next { s with dir := .decrypt, ks := s.key, idx := 0, state := .done })

/-! ## The whole machine -/

/-- The invariants of the state hold after RESET, in every configuration that meets its constraints
(10_state.md R28). -/
def Obligations.ResetMeetsInvariant : Prop :=
  (∀ (c : Config) (n : Nat) (rs : List Reply) (es : List Event), c.wf → (State.afterReset c n rs es).Inv) ∧
  State.reset.Inv

/-- Every step keeps the invariants of the state, from every state that meets them (10_state.md R28). -/
def Obligations.StepKeepsInvariant : Prop :=
  ∀ s t : State, s.Inv → step s = .next t → t.Inv

/-- A step from a state that meets the invariants never faults, and is refused only for a bit string that is no
transaction: "Nothing else fails" (60_exceptions.md R94; 30_encoding.md R51). -/
def Obligations.StepStopsOnlyOnMalformedBits : Prop :=
  ∀ s : State, s.Inv →
    (∀ f, step s ≠ .fault f) ∧
    (∀ q, step s = .refused q → ∃ r es e, s.events = .host r :: es ∧ decode s.cfg r = .error e ∧
      q = .malformedTransaction e)

/-- Every run from a state that meets the invariants, with any events the interface can express in any order, never
stops (20_memory.md R39; 60_exceptions.md R94). -/
def Obligations.ExpressibleRunsAreSafe : Prop :=
  ∀ s : State, s.Inv → (∀ e ∈ s.events, e.expressible s.cfg = true) → s.Safe

/-- Which events change which piece of state: STATE, DIR, KS and IDX (10_state.md R17, R20, R21), KEY and LEN (R18,
R19), IBUF and OBUF (R22, R23); the parameters never change (R27). -/
def Obligations.WritersOfState : Prop :=
  ∀ s t : State, step s = .next t →
    t.cfg = s.cfg ∧
    (t.state ≠ s.state →
      ((∃ d, s.acceptsNext d) ∧ t.state = .busy) ∨ (s.rejectsNext ∧ t.state = .error) ∨
      (s.engineNext ∧ s.idx = s.len ∧ t.state = .done) ∨ (s.clearsNext ∧ t.state = .idle) ∨
      (s.resetNext ∧ t.state = .idle)) ∧
    (t.dir ≠ s.dir → s.acceptsNext t.dir ∨ (s.resetNext ∧ t.dir = .encrypt)) ∧
    (t.ks ≠ s.ks →
      ((∃ d, s.acceptsNext d) ∧ t.ks = s.key) ∨
      (s.engineNext ∧ s.idx < s.len ∧ t.ks = scramble s.ks) ∨ (s.resetNext ∧ t.ks = 0x00#8)) ∧
    (t.idx ≠ s.idx →
      ((∃ d, s.acceptsNext d) ∧ t.idx = 0) ∨
      (s.engineNext ∧ s.idx < s.len ∧ t.idx = s.idx + 1) ∨ (s.resetNext ∧ t.idx = 0)) ∧
    (t.key ≠ s.key → (s.state ≠ .busy ∧ s.hostIssues (.wrKey t.key)) ∨ (s.resetNext ∧ t.key = 0x00#8)) ∧
    (t.len ≠ s.len → (s.state ≠ .busy ∧ s.hostIssues (.wrLen t.len)) ∨ (s.resetNext ∧ t.len = 0)) ∧
    (∀ a, t.bufferByte .ibuf a ≠ s.bufferByte .ibuf a →
      (s.state ≠ .busy ∧ a < s.cfg.maxChars ∧ s.hostIssues (.wrIbuf a (t.bufferByte .ibuf a))) ∨ s.resetNext) ∧
    (∀ a, t.bufferByte .obuf a ≠ s.bufferByte .obuf a →
      (s.engineNext ∧ s.idx < s.len ∧ a = s.idx) ∨ s.resetNext)

/-- In DONE, until the next accepted ENC or DEC or RESET, no step changes a byte of OBUF, KS or IDX
(20_memory.md R41). -/
def Obligations.ResultStaysUntilNextRun : Prop :=
  ∀ s t : State, s.state = .done → step s = .next t → (∀ d, ¬ s.acceptsNext d) → ¬ s.resetNext →
    t.ks = s.ks ∧ t.idx = s.idx ∧ ∀ a, t.bufferByte .obuf a = s.bufferByte .obuf a

/-- A run computes TRANSFORM, whatever HOST transactions are interleaved with its ENGINE STEPs. After the accepted
command and a list of events with `j <= n` ENGINE turns and no RESET, `IDX = j`, `KS = K(j)`, OBUF[0 .. j) is the first
`j` bytes of the result and the rest of OBUF is as before; KEY, LEN and IBUF are unchanged; and after one more ENGINE
turn beyond the `n`-th, STATE is DONE and (OBUF[0 .. n), KS) is TRANSFORM (42_driver_and_commands.md R84; the bounds,
20_memory.md R45). -/
def Obligations.RunComputesTransform : Prop :=
  ∀ (s : State) (i : Instr) (d : Direction) (es rest : List Event),
    s.state ≠ .busy → s.len ≤ s.cfg.maxChars → i.starts = some d →
    s.events = .host (encode s.cfg i) :: (es ++ rest) →
    (∀ e ∈ es, e ≠ .reset ∧ e.expressible s.cfg = true) →
    let S := (List.range s.len).map (s.bufferByte .ibuf)
    let j := es.count .engine
    (j ≤ s.len →
      ∃ t, runSteps (1 + es.length) s = .next t ∧ t.state = .busy ∧ t.dir = d ∧ t.idx = j ∧
        t.ks = keyAfter s.key j ∧ t.key = s.key ∧ t.len = s.len ∧ t.ibuf = s.ibuf ∧ t.resets = s.resets ∧
        t.cfg = s.cfg ∧ t.events = rest ∧
        (List.range j).map (t.bufferByte .obuf) = (transform S s.len s.key d).1.take j ∧
        (∀ a, j ≤ a → t.bufferByte .obuf a = s.bufferByte .obuf a)) ∧
    (j = s.len → ∀ rest', rest = .engine :: rest' →
      ∃ t, runSteps (1 + es.length + 1) s = .next t ∧ t.state = .done ∧ t.dir = d ∧ t.idx = s.len ∧
        t.key = s.key ∧ t.len = s.len ∧ t.ibuf = s.ibuf ∧ t.resets = s.resets ∧ t.cfg = s.cfg ∧ t.events = rest' ∧
        ((List.range s.len).map (t.bufferByte .obuf), t.ks) = transform S s.len s.key d ∧
        (∀ a, s.len ≤ a → t.bufferByte .obuf a = s.bufferByte .obuf a))

/-- Determinism: two runs accepted with equal KEY, LEN, IBUF[0 .. LEN) and direction give equal OBUF[0 .. LEN), KS and
IDX, whatever the states before were and whatever the interleavings are (42_driver_and_commands.md R87). -/
def Obligations.RunsAreDeterministic : Prop :=
  ∀ (s s' : State) (i i' : Instr) (d : Direction) (es es' rest rest' : List Event),
    s.state ≠ .busy → s'.state ≠ .busy → s.len ≤ s.cfg.maxChars → s'.len ≤ s'.cfg.maxChars →
    i.starts = some d → i'.starts = some d →
    s.key = s'.key → s.len = s'.len → (∀ a, a < s.len → s.bufferByte .ibuf a = s'.bufferByte .ibuf a) →
    s.events = .host (encode s.cfg i) :: (es ++ .engine :: rest) →
    s'.events = .host (encode s'.cfg i') :: (es' ++ .engine :: rest') →
    (∀ e ∈ es, e ≠ .reset ∧ e.expressible s.cfg = true) → (∀ e ∈ es', e ≠ .reset ∧ e.expressible s'.cfg = true) →
    es.count .engine = s.len → es'.count .engine = s.len →
    ∃ t t', runSteps (1 + es.length + 1) s = .next t ∧ runSteps (1 + es'.length + 1) s' = .next t' ∧
      t.state = .done ∧ t'.state = .done ∧ t.ks = t'.ks ∧ t.idx = t'.idx ∧
      ∀ a, a < s.len → t.bufferByte .obuf a = t'.bufferByte .obuf a

/-- The source's two operations as HOST sequences: from any state outside BUSY, writing KEY, LOAD, the command, then
polls of STATUS interleaved in any way with at least `n + 1` ENGINE turns, then READOUT, answers the bytes of
TRANSFORM; KEY still holds the key, KS the final key and IBUF the input; and with `n > MAX_CHARS` the command is
rejected, STATE is ERROR and OBUF is as before (42_driver_and_commands.md R85; 30_encoding.md R52). -/
def Obligations.HostSequenceComputesTransform : Prop :=
  ∀ (s : State) (d : Direction) (k : Byte) (S : List Byte) (mid rest : List Event),
    s.cfg.wf → s.state ≠ .busy →
    (∀ e ∈ mid, e = .engine ∨ e = .host (encode s.cfg .rdStatus)) →
    let setup := programEvents s.cfg (setupOp d k S)
    let readout := programEvents s.cfg (readoutOp S.length)
    (S.length ≤ s.cfg.maxChars → S.length + 1 ≤ mid.count .engine →
      s.events = setup ++ (mid ++ (readout ++ rest)) →
      ∃ t polls, runSteps (setup.length + (mid.length + readout.length)) s = .next t ∧
        polls.length + mid.count .engine = mid.length ∧
        t.replies = s.replies ++ polls ++ (transform S S.length k d).1.map .byte ∧
        t.state = .done ∧ t.dir = d ∧ t.key = k ∧ t.len = S.length ∧ t.idx = S.length ∧
        t.ks = (transform S S.length k d).2 ∧ (List.range S.length).map (t.bufferByte .ibuf) = S ∧
        t.cfg = s.cfg ∧ t.events = rest) ∧
    (s.cfg.maxChars < S.length → S.length < 2 ^ s.cfg.lenW →
      s.events = setup ++ rest →
      ∃ t, runSteps setup.length s = .next t ∧ t.state = .error ∧ t.dir = s.dir ∧ t.ks = s.ks ∧ t.idx = s.idx ∧
        t.obuf = s.obuf ∧ t.replies = s.replies ∧ t.events = rest)

/-- A sequence of `2^LEN_W` bytes or more: a line of its HOST program has an operand that cannot be expressed
(20_memory.md R34), and the run stops there, before the command, refused by name; the operand is not cut to its low
bits. What such a program does is the model's choice (log entry 17). -/
def Obligations.InexpressibleSequenceRefused : Prop :=
  ∀ (s : State) (d : Direction) (k : Byte) (S : List Byte) (rest : List Event),
    2 ^ s.cfg.lenW ≤ S.length →
    s.events = programEvents s.cfg (setupOp d k S) ++ rest →
    ∀ m, (setupOp d k S).length ≤ m + 1 → runSteps m s = .refused (.malformedTransaction .truncated)

/-- The round trip on the hardware: ENCRYPT, the HOST's copy of what READOUT answered into a DECRYPT with the same
key, and the last `n` replies are the original bytes, for any interleaving of either run
(42_driver_and_commands.md R86; 70_reset_and_hazards.md R114). -/
def Obligations.HardwareRoundTrip : Prop :=
  ∀ (s : State) (k : Byte) (S : List Byte) (mid mid' rest : List Event),
    s.cfg.wf → s.state ≠ .busy → S.length ≤ s.cfg.maxChars →
    (∀ e ∈ mid ++ mid', e = .engine ∨ e = .host (encode s.cfg .rdStatus)) →
    S.length + 1 ≤ mid.count .engine → S.length + 1 ≤ mid'.count .engine →
    let readout := programEvents s.cfg (readoutOp S.length)
    let first := programEvents s.cfg (setupOp .encrypt k S) ++ (mid ++ readout)
    let second := programEvents s.cfg (setupOp .decrypt k (transform S S.length k .encrypt).1) ++ (mid' ++ readout)
    s.events = first ++ (second ++ rest) →
    ∃ t polls polls', runSteps (first.length + second.length) s = .next t ∧ t.events = rest ∧
      t.replies = s.replies ++ polls ++ (transform S S.length k .encrypt).1.map .byte ++ polls' ++ S.map .byte
end

