-- ==== Sys2Proof/Laws/Encoding.lean ====
section
/-! SUPPORT. Bit strings and the numbers they stand for; fields of an exact width. -/

namespace Sys2Proof

@[simp] theorem toBits_length (w n : Nat) : (toBits w n).length = w := by
  induction w with
  | zero => rfl
  | succ w ih => simp [toBits, ih]

theorem ofBits_lt (bits : List Bool) : ofBits bits < 2 ^ bits.length := by
  induction bits with
  | nil => simp [ofBits]
  | cons b bs ih =>
    have hb : b.toNat ≤ 1 := Bool.toNat_le b
    have := Nat.mul_le_mul_right (2 ^ bs.length) hb
    simp only [ofBits, List.length_cons, Nat.pow_succ]
    omega

theorem ofBits_append (xs ys : List Bool) : ofBits (xs ++ ys) = ofBits xs * 2 ^ ys.length + ofBits ys := by
  induction xs with
  | nil => simp [ofBits]
  | cons b bs ih =>
    simp only [List.cons_append, ofBits, ih, List.length_append, Nat.pow_add]
    ring

/-- The bits of a number stand for its low `w` bits. -/
theorem ofBits_toBits (w n : Nat) : ofBits (toBits w n) = n % 2 ^ w := by
  induction w with
  | zero => simp [toBits, ofBits, Nat.mod_one]
  | succ w ih =>
    rw [Nat.mod_pow_succ]
    simp only [toBits, ofBits, toBits_length, ih, Nat.testBit_eq_decide_div_mod_eq]
    rcases Nat.mod_two_eq_zero_or_one (n / 2 ^ w) with h | h <;> simp [h, Nat.add_comm]

theorem ofBits_toBits_of_lt {w n : Nat} (h : n < 2 ^ w) : ofBits (toBits w n) = n := by
  rw [ofBits_toBits, Nat.mod_eq_of_lt h]

/-- A bit string is the bits of the number it stands for. -/
theorem toBits_ofBits (bits : List Bool) : toBits bits.length (ofBits bits) = bits := by
  have low : ∀ (w n k : Nat), toBits w (k * 2 ^ w + n) = toBits w n := by
    intro w n k
    induction w generalizing k with
    | zero => rfl
    | succ w ih =>
      have e : k * 2 ^ (w + 1) + n = (2 * k) * 2 ^ w + n := by ring
      simp only [toBits]
      rw [e, ih (2 * k)]
      congr 1
      simp only [Nat.testBit_eq_decide_div_mod_eq]
      have : (2 * k * 2 ^ w + n) / 2 ^ w = 2 * k + n / 2 ^ w := by
        rw [Nat.add_comm, Nat.add_mul_div_right _ _ (Nat.two_pow_pos w), Nat.add_comm]
      rw [this, Nat.add_mod, Nat.mul_mod_right, Nat.zero_add, Nat.mod_mod]
  induction bits with
  | nil => rfl
  | cons b bs ih =>
    simp only [ofBits, List.length_cons, toBits]
    rw [low, ih]
    congr 1
    have hlt := ofBits_lt bs
    rw [Nat.testBit_eq_decide_div_mod_eq, Nat.add_comm, Nat.add_mul_div_right _ _ (Nat.two_pow_pos _),
      Nat.div_eq_of_lt hlt, Nat.zero_add]
    cases b <;> rfl

theorem exactField_of_length {w : Nat} {bits : List Bool} (h : bits.length = w) :
    exactField w bits = .ok (ofBits bits) := by
  simp [exactField, h]

/-- A field is read exactly when the bit string has its width. -/
theorem exactField_ok_iff {w v : Nat} {bits : List Bool} :
    exactField w bits = .ok v ↔ bits.length = w ∧ ofBits bits = v := by
  unfold exactField
  split
  · simp; omega
  · split
    · simp; omega
    · simp; omega

end Sys2Proof
end

