-- ==== Sys2Proof/Laws/HostProgram.lean ====
section
/-! SUPPORT. What a line of a HOST program becomes: the encoding of an instruction that fits, a request the decoder
refuses of one that does not. -/

namespace Sys2Proof.Machine

@[simp] theorem hostRequest_of_wellFormed {c : Config} {i : Instr} (h : i.wellFormed c = true) :
    hostRequest c i = encode c i := if_pos h

theorem decode_hostRequest_of_not_wellFormed {c : Config} {i : Instr} (h : i.wellFormed c = false) :
    decode c (hostRequest c i) = .error .truncated := by
  simp [hostRequest, h, decode, decodeTransaction]

@[simp] theorem programEvents_nil (c : Config) : programEvents c [] = [] := rfl

@[simp] theorem programEvents_cons (c : Config) (i : Instr) (p : List Instr) :
    programEvents c (i :: p) = .host (hostRequest c i) :: programEvents c p := rfl

@[simp] theorem programEvents_append (c : Config) (p q : List Instr) :
    programEvents c (p ++ q) = programEvents c p ++ programEvents c q := List.map_append

@[simp] theorem programEvents_length (c : Config) (p : List Instr) : (programEvents c p).length = p.length :=
  List.length_map _

end Sys2Proof.Machine
end

