-- ==== Sys2Proof/Laws/State.lean ====
section
/-! SUPPORT. One lemma per field per update of State, true by rfl, so that no proof unfolds a record update. -/

namespace Sys2Proof.Machine

/-! `answer`. -/

@[simp] theorem State.answer_state (s : State) (r : Reply) : (s.answer r).state = s.state := rfl
@[simp] theorem State.answer_dir (s : State) (r : Reply) : (s.answer r).dir = s.dir := rfl
@[simp] theorem State.answer_key (s : State) (r : Reply) : (s.answer r).key = s.key := rfl
@[simp] theorem State.answer_len (s : State) (r : Reply) : (s.answer r).len = s.len := rfl
@[simp] theorem State.answer_ks (s : State) (r : Reply) : (s.answer r).ks = s.ks := rfl
@[simp] theorem State.answer_idx (s : State) (r : Reply) : (s.answer r).idx = s.idx := rfl
@[simp] theorem State.answer_ibuf (s : State) (r : Reply) : (s.answer r).ibuf = s.ibuf := rfl
@[simp] theorem State.answer_obuf (s : State) (r : Reply) : (s.answer r).obuf = s.obuf := rfl
@[simp] theorem State.answer_cfg (s : State) (r : Reply) : (s.answer r).cfg = s.cfg := rfl
@[simp] theorem State.answer_resets (s : State) (r : Reply) : (s.answer r).resets = s.resets := rfl
@[simp] theorem State.answer_replies (s : State) (r : Reply) : (s.answer r).replies = s.replies ++ [r] := rfl
@[simp] theorem State.answer_events (s : State) (r : Reply) : (s.answer r).events = s.events := rfl

/-! `raiseInvalidLength`. -/

@[simp] theorem State.raiseInvalidLength_state (s : State) : s.raiseInvalidLength.state = .error := rfl
@[simp] theorem State.raiseInvalidLength_dir (s : State) : s.raiseInvalidLength.dir = s.dir := rfl
@[simp] theorem State.raiseInvalidLength_key (s : State) : s.raiseInvalidLength.key = s.key := rfl
@[simp] theorem State.raiseInvalidLength_len (s : State) : s.raiseInvalidLength.len = s.len := rfl
@[simp] theorem State.raiseInvalidLength_ks (s : State) : s.raiseInvalidLength.ks = s.ks := rfl
@[simp] theorem State.raiseInvalidLength_idx (s : State) : s.raiseInvalidLength.idx = s.idx := rfl
@[simp] theorem State.raiseInvalidLength_ibuf (s : State) : s.raiseInvalidLength.ibuf = s.ibuf := rfl
@[simp] theorem State.raiseInvalidLength_obuf (s : State) : s.raiseInvalidLength.obuf = s.obuf := rfl
@[simp] theorem State.raiseInvalidLength_cfg (s : State) : s.raiseInvalidLength.cfg = s.cfg := rfl
@[simp] theorem State.raiseInvalidLength_resets (s : State) : s.raiseInvalidLength.resets = s.resets := rfl
@[simp] theorem State.raiseInvalidLength_replies (s : State) : s.raiseInvalidLength.replies = s.replies := rfl
@[simp] theorem State.raiseInvalidLength_events (s : State) : s.raiseInvalidLength.events = s.events := rfl

/-! `toIdle`. -/

@[simp] theorem State.toIdle_state (s : State) : s.toIdle.state = .idle := rfl
@[simp] theorem State.toIdle_dir (s : State) : s.toIdle.dir = s.dir := rfl
@[simp] theorem State.toIdle_key (s : State) : s.toIdle.key = s.key := rfl
@[simp] theorem State.toIdle_len (s : State) : s.toIdle.len = s.len := rfl
@[simp] theorem State.toIdle_ks (s : State) : s.toIdle.ks = s.ks := rfl
@[simp] theorem State.toIdle_idx (s : State) : s.toIdle.idx = s.idx := rfl
@[simp] theorem State.toIdle_ibuf (s : State) : s.toIdle.ibuf = s.ibuf := rfl
@[simp] theorem State.toIdle_obuf (s : State) : s.toIdle.obuf = s.obuf := rfl
@[simp] theorem State.toIdle_cfg (s : State) : s.toIdle.cfg = s.cfg := rfl
@[simp] theorem State.toIdle_resets (s : State) : s.toIdle.resets = s.resets := rfl
@[simp] theorem State.toIdle_replies (s : State) : s.toIdle.replies = s.replies := rfl
@[simp] theorem State.toIdle_events (s : State) : s.toIdle.events = s.events := rfl

/-! `accept`. -/

@[simp] theorem State.accept_state (s : State) (d : Direction) : (s.accept d).state = .busy := rfl
@[simp] theorem State.accept_dir (s : State) (d : Direction) : (s.accept d).dir = d := rfl
@[simp] theorem State.accept_key (s : State) (d : Direction) : (s.accept d).key = s.key := rfl
@[simp] theorem State.accept_len (s : State) (d : Direction) : (s.accept d).len = s.len := rfl
@[simp] theorem State.accept_ks (s : State) (d : Direction) : (s.accept d).ks = s.key := rfl
@[simp] theorem State.accept_idx (s : State) (d : Direction) : (s.accept d).idx = 0 := rfl
@[simp] theorem State.accept_ibuf (s : State) (d : Direction) : (s.accept d).ibuf = s.ibuf := rfl
@[simp] theorem State.accept_obuf (s : State) (d : Direction) : (s.accept d).obuf = s.obuf := rfl
@[simp] theorem State.accept_cfg (s : State) (d : Direction) : (s.accept d).cfg = s.cfg := rfl
@[simp] theorem State.accept_resets (s : State) (d : Direction) : (s.accept d).resets = s.resets := rfl
@[simp] theorem State.accept_replies (s : State) (d : Direction) : (s.accept d).replies = s.replies := rfl
@[simp] theorem State.accept_events (s : State) (d : Direction) : (s.accept d).events = s.events := rfl

/-! `complete`. -/

@[simp] theorem State.complete_state (s : State) : s.complete.state = .done := rfl
@[simp] theorem State.complete_dir (s : State) : s.complete.dir = s.dir := rfl
@[simp] theorem State.complete_key (s : State) : s.complete.key = s.key := rfl
@[simp] theorem State.complete_len (s : State) : s.complete.len = s.len := rfl
@[simp] theorem State.complete_ks (s : State) : s.complete.ks = s.ks := rfl
@[simp] theorem State.complete_idx (s : State) : s.complete.idx = s.idx := rfl
@[simp] theorem State.complete_ibuf (s : State) : s.complete.ibuf = s.ibuf := rfl
@[simp] theorem State.complete_obuf (s : State) : s.complete.obuf = s.obuf := rfl
@[simp] theorem State.complete_cfg (s : State) : s.complete.cfg = s.cfg := rfl
@[simp] theorem State.complete_resets (s : State) : s.complete.resets = s.resets := rfl
@[simp] theorem State.complete_replies (s : State) : s.complete.replies = s.replies := rfl
@[simp] theorem State.complete_events (s : State) : s.complete.events = s.events := rfl

/-! `processByte`. -/

@[simp] theorem State.processByte_state (s : State) : s.processByte.state = s.state := rfl
@[simp] theorem State.processByte_dir (s : State) : s.processByte.dir = s.dir := rfl
@[simp] theorem State.processByte_key (s : State) : s.processByte.key = s.key := rfl
@[simp] theorem State.processByte_len (s : State) : s.processByte.len = s.len := rfl
@[simp] theorem State.processByte_ks (s : State) : s.processByte.ks = scramble s.ks := rfl
@[simp] theorem State.processByte_idx (s : State) : s.processByte.idx = s.idx + 1 := rfl
@[simp] theorem State.processByte_ibuf (s : State) : s.processByte.ibuf = s.ibuf := rfl
@[simp] theorem State.processByte_obuf (s : State) : s.processByte.obuf =
    s.obuf.write s.idx (rotateByte s.dir (s.bufferByte .ibuf s.idx) (scramble s.ks)) := rfl
@[simp] theorem State.processByte_cfg (s : State) : s.processByte.cfg = s.cfg := rfl
@[simp] theorem State.processByte_resets (s : State) : s.processByte.resets = s.resets := rfl
@[simp] theorem State.processByte_replies (s : State) : s.processByte.replies = s.replies := rfl
@[simp] theorem State.processByte_events (s : State) : s.processByte.events = s.events := rfl

/-! `takeReset`. -/

@[simp] theorem State.takeReset_state (s : State) : s.takeReset.state = .idle := rfl
@[simp] theorem State.takeReset_dir (s : State) : s.takeReset.dir = .encrypt := rfl
@[simp] theorem State.takeReset_key (s : State) : s.takeReset.key = 0x00#8 := rfl
@[simp] theorem State.takeReset_len (s : State) : s.takeReset.len = 0 := rfl
@[simp] theorem State.takeReset_ks (s : State) : s.takeReset.ks = 0x00#8 := rfl
@[simp] theorem State.takeReset_idx (s : State) : s.takeReset.idx = 0 := rfl
@[simp] theorem State.takeReset_ibuf (s : State) : s.takeReset.ibuf = [] := rfl
@[simp] theorem State.takeReset_obuf (s : State) : s.takeReset.obuf = [] := rfl
@[simp] theorem State.takeReset_cfg (s : State) : s.takeReset.cfg = s.cfg := rfl
@[simp] theorem State.takeReset_resets (s : State) : s.takeReset.resets = s.resets + 1 := rfl
@[simp] theorem State.takeReset_replies (s : State) : s.takeReset.replies = s.replies := rfl
@[simp] theorem State.takeReset_events (s : State) : s.takeReset.events = s.events := rfl

/-! `afterReset`. -/

@[simp] theorem State.afterReset_state (c : Config) (n : Nat) (rs : List Reply) (es : List Event) :
    (State.afterReset c n rs es).state = .idle := rfl
@[simp] theorem State.afterReset_dir (c : Config) (n : Nat) (rs : List Reply) (es : List Event) :
    (State.afterReset c n rs es).dir = .encrypt := rfl
@[simp] theorem State.afterReset_key (c : Config) (n : Nat) (rs : List Reply) (es : List Event) :
    (State.afterReset c n rs es).key = 0x00#8 := rfl
@[simp] theorem State.afterReset_len (c : Config) (n : Nat) (rs : List Reply) (es : List Event) :
    (State.afterReset c n rs es).len = 0 := rfl
@[simp] theorem State.afterReset_ks (c : Config) (n : Nat) (rs : List Reply) (es : List Event) :
    (State.afterReset c n rs es).ks = 0x00#8 := rfl
@[simp] theorem State.afterReset_idx (c : Config) (n : Nat) (rs : List Reply) (es : List Event) :
    (State.afterReset c n rs es).idx = 0 := rfl
@[simp] theorem State.afterReset_ibuf (c : Config) (n : Nat) (rs : List Reply) (es : List Event) :
    (State.afterReset c n rs es).ibuf = [] := rfl
@[simp] theorem State.afterReset_obuf (c : Config) (n : Nat) (rs : List Reply) (es : List Event) :
    (State.afterReset c n rs es).obuf = [] := rfl
@[simp] theorem State.afterReset_cfg (c : Config) (n : Nat) (rs : List Reply) (es : List Event) :
    (State.afterReset c n rs es).cfg = c := rfl
@[simp] theorem State.afterReset_resets (c : Config) (n : Nat) (rs : List Reply) (es : List Event) :
    (State.afterReset c n rs es).resets = n := rfl
@[simp] theorem State.afterReset_replies (c : Config) (n : Nat) (rs : List Reply) (es : List Event) :
    (State.afterReset c n rs es).replies = rs := rfl
@[simp] theorem State.afterReset_events (c : Config) (n : Nat) (rs : List Reply) (es : List Event) :
    (State.afterReset c n rs es).events = es := rfl

/-! `writeIbuf`. -/

@[simp] theorem State.writeIbuf_state (s : State) (i : Nat) (v : Byte) : (s.writeIbuf i v).state = s.state := by
  unfold State.writeIbuf; split <;> rfl
@[simp] theorem State.writeIbuf_dir (s : State) (i : Nat) (v : Byte) : (s.writeIbuf i v).dir = s.dir := by
  unfold State.writeIbuf; split <;> rfl
@[simp] theorem State.writeIbuf_key (s : State) (i : Nat) (v : Byte) : (s.writeIbuf i v).key = s.key := by
  unfold State.writeIbuf; split <;> rfl
@[simp] theorem State.writeIbuf_len (s : State) (i : Nat) (v : Byte) : (s.writeIbuf i v).len = s.len := by
  unfold State.writeIbuf; split <;> rfl
@[simp] theorem State.writeIbuf_ks (s : State) (i : Nat) (v : Byte) : (s.writeIbuf i v).ks = s.ks := by
  unfold State.writeIbuf; split <;> rfl
@[simp] theorem State.writeIbuf_idx (s : State) (i : Nat) (v : Byte) : (s.writeIbuf i v).idx = s.idx := by
  unfold State.writeIbuf; split <;> rfl
theorem State.writeIbuf_ibuf (s : State) (i : Nat) (v : Byte) : (s.writeIbuf i v).ibuf =
    if i < s.cfg.maxChars then s.ibuf.write i v else s.ibuf := by
  unfold State.writeIbuf; split <;> rfl
@[simp] theorem State.writeIbuf_obuf (s : State) (i : Nat) (v : Byte) : (s.writeIbuf i v).obuf = s.obuf := by
  unfold State.writeIbuf; split <;> rfl
@[simp] theorem State.writeIbuf_cfg (s : State) (i : Nat) (v : Byte) : (s.writeIbuf i v).cfg = s.cfg := by
  unfold State.writeIbuf; split <;> rfl
@[simp] theorem State.writeIbuf_resets (s : State) (i : Nat) (v : Byte) : (s.writeIbuf i v).resets = s.resets := by
  unfold State.writeIbuf; split <;> rfl
@[simp] theorem State.writeIbuf_replies (s : State) (i : Nat) (v : Byte) : (s.writeIbuf i v).replies = s.replies := by
  unfold State.writeIbuf; split <;> rfl
@[simp] theorem State.writeIbuf_events (s : State) (i : Nat) (v : Byte) : (s.writeIbuf i v).events = s.events := by
  unfold State.writeIbuf; split <;> rfl

end Sys2Proof.Machine
end

