-- ==== Sys2Proof/Laws/Memory.lean ====
section
/-! SUPPORT. Reading and writing a buffer: read after write, the canonical form, the mapped range. -/

namespace Sys2Proof.Machine

theorem Memory.read?_write_same (m : Memory) (a : Nat) (v : Byte) : (m.write a v).read? a = some v := by
  induction m with
  | nil => simp [Memory.write, Memory.read?]
  | cons c m ih =>
    obtain ⟨b, w⟩ := c
    unfold Memory.write
    split
    · simp [Memory.read?]
    · split
      · simp [Memory.read?]
      · simp [Memory.read?, *]

theorem Memory.read?_write_other (m : Memory) {a b : Nat} (v : Byte) (h : b ≠ a) :
    (m.write a v).read? b = m.read? b := by
  induction m with
  | nil => simp [Memory.write, Memory.read?, h]
  | cons c m ih =>
    obtain ⟨c, w⟩ := c
    unfold Memory.write
    split
    · simp [Memory.read?, h]
    · split
      · subst_vars
        simp [Memory.read?, h]
      · simp [Memory.read?, ih]

/-- The indices of a written buffer: the old ones and the one written. -/
theorem Memory.mem_write (m : Memory) (a : Nat) (v : Byte) {c : Host.Cell} (h : c ∈ m.write a v) :
    c = (a, v) ∨ c ∈ m := by
  induction m with
  | nil => simpa [Memory.write] using h
  | cons d m ih =>
    obtain ⟨b, w⟩ := d
    unfold Memory.write at h
    split at h
    · simpa using h
    · split at h
      · simp only [List.mem_cons] at h ⊢
        tauto
      · simp only [List.mem_cons] at h ⊢
        rcases h with h | h
        · exact .inr (.inl h)
        · exact (ih h).imp_right .inr

/-- A write keeps the canonical form. -/
theorem Memory.write_wf (m : Memory) (a : Nat) (v : Byte) (h : m.wf) : (m.write a v).wf := by
  induction m with
  | nil => simp [Memory.write, Memory.wf]
  | cons d m ih =>
    obtain ⟨b, w⟩ := d
    simp only [Memory.wf, List.map_cons, List.pairwise_cons] at h ih
    unfold Memory.write
    split
    · rename_i hab
      simp only [Memory.wf, List.map_cons, List.pairwise_cons, List.mem_cons]
      refine ⟨?_, h⟩
      rintro x (rfl | hx)
      · exact hab
      · exact hab.trans (h.1 x hx)
    · split
      · rename_i hab
        subst hab
        simpa only [Memory.wf, List.map_cons, List.pairwise_cons] using h
      · simp only [Memory.wf, List.map_cons, List.pairwise_cons]
        refine ⟨?_, ih h.2⟩
        intro x hx
        obtain ⟨c, hc, rfl⟩ := List.mem_map.1 hx
        rcases Memory.mem_write m a v hc with rfl | hc
        · simp only
          omega
        · exact h.1 _ (List.mem_map.2 ⟨c, hc, rfl⟩)

/-- A write at a mapped index keeps the buffer within its mapped locations. -/
theorem Memory.write_mapped (m : Memory) {a n : Nat} (v : Byte) (ha : a < n) (h : ∀ c ∈ m, c.1 < n) :
    ∀ c ∈ m.write a v, c.1 < n := by
  intro c hc
  rcases Memory.mem_write m a v hc with rfl | hc
  · exact ha
  · exact h c hc

/-! What a buffer byte is after each operation. -/

/-- A buffer byte depends on the buffer and on the number of RESETs alone. -/
theorem State.bufferByte_congr {s t : State} {b : Buffer} {i : Nat}
    (hm : (t.buffer b).read? i = (s.buffer b).read? i) (hr : t.resets = s.resets) :
    t.bufferByte b i = s.bufferByte b i := by
  simp [State.bufferByte, hm, hr]

theorem State.processByte_obuf_same (s : State) : s.processByte.bufferByte .obuf s.idx =
    rotateByte s.dir (s.bufferByte .ibuf s.idx) (scramble s.ks) := by
  simp [State.bufferByte, State.buffer, Memory.read?_write_same]

theorem State.processByte_obuf_other (s : State) {i : Nat} (h : i ≠ s.idx) :
    s.processByte.bufferByte .obuf i = s.bufferByte .obuf i :=
  State.bufferByte_congr (by simp [State.buffer, Memory.read?_write_other _ _ h]) (by simp)

theorem State.processByte_ibufByte (s : State) (i : Nat) :
    s.processByte.bufferByte .ibuf i = s.bufferByte .ibuf i :=
  State.bufferByte_congr (by simp [State.buffer]) (by simp)

theorem State.writeIbuf_obufByte (s : State) (i : Nat) (v : Byte) (j : Nat) :
    (s.writeIbuf i v).bufferByte .obuf j = s.bufferByte .obuf j :=
  State.bufferByte_congr (by simp [State.buffer]) (by simp)

theorem State.writeIbuf_same (s : State) {i : Nat} (v : Byte) (h : i < s.cfg.maxChars) :
    (s.writeIbuf i v).bufferByte .ibuf i = v := by
  simp [State.bufferByte, State.buffer, State.writeIbuf_ibuf, h, Memory.read?_write_same]

theorem State.writeIbuf_other (s : State) {i j : Nat} (v : Byte) (h : j ≠ i) :
    (s.writeIbuf i v).bufferByte .ibuf j = s.bufferByte .ibuf j := by
  refine State.bufferByte_congr ?_ (by simp)
  simp only [State.buffer, State.writeIbuf_ibuf]
  split
  · exact Memory.read?_write_other _ _ h
  · rfl

end Sys2Proof.Machine
end

