-- ==== Sys2Proof/Laws/PerInstr.lean ====
section
/-! SUPPORT. One statement per instruction about its syntax: the encoder writes the header of opcode_table.json and
then exactly the operand bits of the instruction (30_encoding.md R46 to R48). -/

namespace Sys2Proof.Laws.EncodedHeader

/-- The header of an instruction's row of opcode_table.json: how many bits it has, and their value. -/
def header : Instr → Nat × Nat
  | .rdCtrl => (6, 0x00)
  | .rdStatus => (6, 0x01)
  | .rdKey => (6, 0x02)
  | .rdLen => (6, 0x03)
  | .rdKs => (6, 0x04)
  | .rdIdx => (6, 0x05)
  | .rdReg6 => (6, 0x06)
  | .rdReg7 => (6, 0x07)
  | .wrCtrl _ => (6, 0x20)
  | .wrStatus _ => (6, 0x21)
  | .wrKey _ => (6, 0x22)
  | .wrLen _ => (6, 0x23)
  | .wrKs _ => (6, 0x24)
  | .wrIdx _ => (6, 0x25)
  | .wrReg6 _ => (6, 0x26)
  | .wrReg7 _ => (6, 0x27)
  | .rdIbuf _ => (3, 0x1)
  | .rdObuf _ => (3, 0x2)
  | .rdUnmapped _ => (3, 0x3)
  | .wrIbuf _ _ => (3, 0x5)
  | .wrObuf _ _ => (3, 0x6)
  | .wrUnmapped _ _ => (3, 0x7)
  | .nop => (2, 0x0)
  | .enc => (2, 0x1)
  | .dec => (2, 0x2)
  | .clr => (2, 0x3)

/-- How many operand bits follow the header: the index and the data of the row's "operands". -/
def operandBits (c : Config) : Instr → Nat
  | .rdCtrl | .rdStatus | .rdKey | .rdLen | .rdKs | .rdIdx | .rdReg6 | .rdReg7 => 0
  | .wrCtrl _ => 2
  | .wrStatus _ | .wrKey _ | .wrKs _ | .wrReg6 _ | .wrReg7 _ => 8
  | .wrLen _ | .wrIdx _ => c.lenW
  | .rdIbuf _ | .rdObuf _ | .rdUnmapped _ => c.lenW
  | .wrIbuf _ _ | .wrObuf _ _ | .wrUnmapped _ _ => c.lenW + 8
  | .nop | .enc | .dec | .clr => 0

/-- A request begins with the header `h` of `w` bits and has `n` operand bits after it, no more and no less. A
command word is all header. -/
def Begins (w h n : Nat) : Request → Prop
  | .transaction bits => bits.length = w + n ∧ ofBits (bits.take w) = h
  | .command op => w = 2 ∧ n = 0 ∧ op.toNat = h

/-- The encoded form begins with the row's header and has the row's operand bits. -/
def Statement (i : Instr) : Prop := ∀ c : Config, Begins (header i).1 (header i).2 (operandBits c i) (encode c i)

theorem header_begins (w h : Nat) (hh : h < 2 ^ w) (bits : List Bool) :
    Begins w h bits.length (.transaction (toBits w h ++ bits)) := by
  refine ⟨by simp, ?_⟩
  rw [List.take_append_of_le_length (by simp), List.take_of_length_le (by simp)]
  exact ofBits_toBits_of_lt hh

/-- A REG transaction with `n` bits of data. -/
theorem reg_begins (h : Nat) (hh : h < 64) {n : Nat} (bits : List Bool) (hn : bits.length = n) :
    Begins 6 h n (.transaction (regHeader h ++ bits)) := hn ▸ header_begins 6 h hh bits

/-- A REG transaction without data. -/
theorem reg_begins_alone (h : Nat) (hh : h < 64) : Begins 6 h 0 (.transaction (regHeader h)) := by
  simpa using reg_begins h hh [] rfl

/-- A BUF transaction with `n` bits of index and data. -/
theorem buf_begins (h : Nat) (hh : h < 8) {n : Nat} (bits : List Bool) (hn : bits.length = n) :
    Begins 3 h n (.transaction (bufHeader h ++ bits)) := hn ▸ header_begins 3 h hh bits

theorem rdCtrl : Statement .rdCtrl := fun _ => reg_begins_alone 0x00 (by decide)
theorem rdStatus : Statement .rdStatus := fun _ => reg_begins_alone 0x01 (by decide)
theorem rdKey : Statement .rdKey := fun _ => reg_begins_alone 0x02 (by decide)
theorem rdLen : Statement .rdLen := fun _ => reg_begins_alone 0x03 (by decide)
theorem rdKs : Statement .rdKs := fun _ => reg_begins_alone 0x04 (by decide)
theorem rdIdx : Statement .rdIdx := fun _ => reg_begins_alone 0x05 (by decide)
theorem rdReg6 : Statement .rdReg6 := fun _ => reg_begins_alone 0x06 (by decide)
theorem rdReg7 : Statement .rdReg7 := fun _ => reg_begins_alone 0x07 (by decide)

theorem wrCtrl (op : CommandWord) : Statement (.wrCtrl op) := fun _ =>
  reg_begins 0x20 (by decide) (toBits 2 op.toNat) (toBits_length _ _)
theorem wrStatus (v : Byte) : Statement (.wrStatus v) := fun _ =>
  reg_begins 0x21 (by decide) (toBits 8 v.toNat) (toBits_length _ _)
theorem wrKey (v : Byte) : Statement (.wrKey v) := fun _ =>
  reg_begins 0x22 (by decide) (toBits 8 v.toNat) (toBits_length _ _)
theorem wrLen (v : Nat) : Statement (.wrLen v) := fun c =>
  reg_begins 0x23 (by decide) (toBits c.lenW v) (toBits_length _ _)
theorem wrKs (v : Byte) : Statement (.wrKs v) := fun _ =>
  reg_begins 0x24 (by decide) (toBits 8 v.toNat) (toBits_length _ _)
theorem wrIdx (v : Nat) : Statement (.wrIdx v) := fun c =>
  reg_begins 0x25 (by decide) (toBits c.lenW v) (toBits_length _ _)
theorem wrReg6 (v : Byte) : Statement (.wrReg6 v) := fun _ =>
  reg_begins 0x26 (by decide) (toBits 8 v.toNat) (toBits_length _ _)
theorem wrReg7 (v : Byte) : Statement (.wrReg7 v) := fun _ =>
  reg_begins 0x27 (by decide) (toBits 8 v.toNat) (toBits_length _ _)

theorem rdIbuf (i : Nat) : Statement (.rdIbuf i) := fun c =>
  buf_begins 0b001 (by decide) (toBits c.lenW i) (toBits_length _ _)
theorem rdObuf (i : Nat) : Statement (.rdObuf i) := fun c =>
  buf_begins 0b010 (by decide) (toBits c.lenW i) (toBits_length _ _)
theorem rdUnmapped (i : Nat) : Statement (.rdUnmapped i) := fun c =>
  buf_begins 0b011 (by decide) (toBits c.lenW i) (toBits_length _ _)
theorem wrIbuf (i : Nat) (v : Byte) : Statement (.wrIbuf i v) := fun c =>
  buf_begins 0b101 (by decide) (toBits c.lenW i ++ toBits 8 v.toNat) (by simp [operandBits])
theorem wrObuf (i : Nat) (v : Byte) : Statement (.wrObuf i v) := fun c =>
  buf_begins 0b110 (by decide) (toBits c.lenW i ++ toBits 8 v.toNat) (by simp [operandBits])
theorem wrUnmapped (i : Nat) (v : Byte) : Statement (.wrUnmapped i v) := fun c =>
  buf_begins 0b111 (by decide) (toBits c.lenW i ++ toBits 8 v.toNat) (by simp [operandBits])

theorem nop : Statement .nop := fun _ => ⟨rfl, rfl, rfl⟩
theorem enc : Statement .enc := fun _ => ⟨rfl, rfl, rfl⟩
theorem dec : Statement .dec := fun _ => ⟨rfl, rfl, rfl⟩
theorem clr : Statement .clr := fun _ => ⟨rfl, rfl, rfl⟩

end Sys2Proof.Laws.EncodedHeader
end

