-- ==== Sys2Proof/Laws/Step.lean ====
section
/-! SUPPORT. What each shared operation can do, said once: the gate, a field, a command, an ENGINE turn, an
instruction, a step. -/

namespace Sys2Proof.Machine

/-! The gate and the fields. -/

theorem State.gated_of_busy {s : State} (write : State → State) (h : s.state = .busy) : s.gated write = s := by
  simp [State.gated, h]

theorem State.gated_of_not_busy {s : State} (write : State → State) (h : s.state ≠ .busy) :
    s.gated write = write s := by
  simp [State.gated, h]

theorem State.withField_of_fits {s : State} {v : Nat} (access : State) (h : s.cfg.fits v) :
    s.withField v access = .next access := by
  unfold State.withField
  exact if_pos h

theorem State.withField_next {s t : State} {v : Nat} {access : State} (h : s.withField v access = .next t) :
    s.cfg.fits v ∧ t = access := by
  unfold State.withField at h
  split at h
  · rename_i hv
    exact ⟨hv, by simpa using h.symm⟩
  · simp at h

/-! Commands. -/

theorem State.start_of_le {s : State} (d : Direction) (h : s.len ≤ s.cfg.maxChars) : s.start d = s.accept d := by
  unfold State.start
  exact if_neg (by omega)

theorem State.start_of_lt {s : State} (d : Direction) (h : s.cfg.maxChars < s.len) :
    s.start d = s.raiseInvalidLength := by
  unfold State.start
  exact if_pos h

/-- Everything a dispatched command word can do. -/
theorem State.dispatchCommand_cases (s : State) (op : CommandWord) :
    (op = 0b00#2 ∧ s.dispatchCommand op = s) ∨
    (op = 0b11#2 ∧ s.dispatchCommand op = s.toIdle) ∨
    (∃ d, (Instr.wrCtrl op).starts = some d ∧ s.dispatchCommand op = s.start d) := by
  have all : op = 0b00#2 ∨ op = 0b01#2 ∨ op = 0b10#2 ∨ op = 0b11#2 := by
    revert op
    decide
  rcases all with rfl | rfl | rfl | rfl
  · exact .inl ⟨rfl, rfl⟩
  · exact .inr (.inr ⟨.encrypt, rfl, rfl⟩)
  · exact .inr (.inr ⟨.decrypt, rfl, rfl⟩)
  · exact .inr (.inl ⟨rfl, rfl⟩)

/-! The ENGINE. -/

/-- Everything an ENGINE turn can do when it answers a next state. -/
theorem engineStep_cases {s t : State} (h : engineStep s = .next t) :
    (s.state ≠ .busy ∧ t = s) ∨
    (s.state = .busy ∧ s.idx < s.len ∧ s.idx < s.cfg.maxChars ∧ t = s.processByte) ∨
    (s.state = .busy ∧ s.idx = s.len ∧ t = s.complete) := by
  unfold engineStep at h
  split at h
  · rename_i hb
    split at h
    · rename_i hi
      unfold byteStep at h
      split at h
      · rename_i hm
        exact .inr (.inl ⟨hb, hi, hm, by simpa using h.symm⟩)
      · simp at h
    · split at h
      · rename_i he
        exact .inr (.inr ⟨hb, he, by simpa using h.symm⟩)
      · simp at h
  · rename_i hb
    exact .inl ⟨hb, by simpa using h.symm⟩

/-! Instructions. -/

/-- Everything an instruction can do when it answers a next state: a read adds one reply; a write changes nothing,
or (outside BUSY) writes KEY, LEN or a byte of IBUF, or starts a run, or is rejected, or sets IDLE. -/
theorem exec_cases {i : Instr} {s t : State} (h : exec i s = .next t) :
    (i.isWrite = false ∧ ∃ r, t = s.answer r) ∨
    (i.isWrite = true ∧ t = s) ∨
    (s.state ≠ .busy ∧
      ((∃ v, i = .wrKey v ∧ t = { s with key := v }) ∨
       (∃ v, i = .wrLen v ∧ s.cfg.fits v ∧ t = { s with len := v }) ∨
       (∃ a v, i = .wrIbuf a v ∧ a < s.cfg.maxChars ∧ t = { s with ibuf := s.ibuf.write a v }) ∨
       (∃ d, i.starts = some d ∧ s.len ≤ s.cfg.maxChars ∧ t = s.accept d) ∨
       (∃ d, i.starts = some d ∧ s.cfg.maxChars < s.len ∧ t = s.raiseInvalidLength) ∨
       ((i = .clr ∨ i = .wrCtrl 0b11#2) ∧ t = s.toIdle))) := by
  have started : ∀ d, i.starts = some d → s.state ≠ .busy → t = s.start d →
      (∃ d, i.starts = some d ∧ s.len ≤ s.cfg.maxChars ∧ t = s.accept d) ∨
      (∃ d, i.starts = some d ∧ s.cfg.maxChars < s.len ∧ t = s.raiseInvalidLength) := by
    intro d hd _ ht
    rcases Nat.lt_or_ge s.cfg.maxChars s.len with hl | hl
    · exact .inr ⟨d, hd, hl, by rw [ht, State.start_of_lt d hl]⟩
    · exact .inl ⟨d, hd, hl, by rw [ht, State.start_of_le d hl]⟩
  cases i with
  | rdCtrl => exact .inl ⟨rfl, _, (Host.Outcome.next.inj h).symm⟩
  | rdStatus => exact .inl ⟨rfl, _, (Host.Outcome.next.inj h).symm⟩
  | rdKey => exact .inl ⟨rfl, _, (Host.Outcome.next.inj h).symm⟩
  | rdLen => exact .inl ⟨rfl, _, (Host.Outcome.next.inj h).symm⟩
  | rdKs => exact .inl ⟨rfl, _, (Host.Outcome.next.inj h).symm⟩
  | rdIdx => exact .inl ⟨rfl, _, (Host.Outcome.next.inj h).symm⟩
  | rdReg6 => exact .inl ⟨rfl, _, (Host.Outcome.next.inj h).symm⟩
  | rdReg7 => exact .inl ⟨rfl, _, (Host.Outcome.next.inj h).symm⟩
  | rdIbuf a => exact .inl ⟨rfl, _, (State.withField_next h).2⟩
  | rdObuf a => exact .inl ⟨rfl, _, (State.withField_next h).2⟩
  | rdUnmapped a => exact .inl ⟨rfl, _, (State.withField_next h).2⟩
  | wrStatus v => exact .inr (.inl ⟨rfl, (Host.Outcome.next.inj h).symm⟩)
  | wrKs v => exact .inr (.inl ⟨rfl, (Host.Outcome.next.inj h).symm⟩)
  | wrReg6 v => exact .inr (.inl ⟨rfl, (Host.Outcome.next.inj h).symm⟩)
  | wrReg7 v => exact .inr (.inl ⟨rfl, (Host.Outcome.next.inj h).symm⟩)
  | wrIdx v => exact .inr (.inl ⟨rfl, (State.withField_next h).2⟩)
  | wrObuf a v => exact .inr (.inl ⟨rfl, (State.withField_next h).2⟩)
  | wrUnmapped a v => exact .inr (.inl ⟨rfl, (State.withField_next h).2⟩)
  | wrKey v =>
    have ht := (Host.Outcome.next.inj h).symm
    by_cases hb : s.state = .busy
    · exact .inr (.inl ⟨rfl, by rw [ht, State.gated_of_busy _ hb]⟩)
    · exact .inr (.inr ⟨hb, .inl ⟨v, rfl, by rw [ht, State.gated_of_not_busy _ hb]⟩⟩)
  | wrLen v =>
    obtain ⟨hv, ht⟩ := State.withField_next h
    by_cases hb : s.state = .busy
    · exact .inr (.inl ⟨rfl, by rw [ht, State.gated_of_busy _ hb]⟩)
    · exact .inr (.inr ⟨hb, .inr (.inl ⟨v, rfl, hv, by rw [ht, State.gated_of_not_busy _ hb]⟩)⟩)
  | wrIbuf a v =>
    have ht := (State.withField_next h).2
    by_cases hb : s.state = .busy
    · exact .inr (.inl ⟨rfl, by rw [ht, State.gated_of_busy _ hb]⟩)
    · rw [State.gated_of_not_busy _ hb] at ht
      unfold State.writeIbuf at ht
      split at ht
      · rename_i ha
        exact .inr (.inr ⟨hb, .inr (.inr (.inl ⟨a, v, rfl, ha, ht⟩))⟩)
      · exact .inr (.inl ⟨rfl, ht⟩)
  | wrCtrl op =>
    have ht := (Host.Outcome.next.inj h).symm
    by_cases hb : s.state = .busy
    · exact .inr (.inl ⟨rfl, by rw [ht, State.gated_of_busy _ hb]⟩)
    · rw [State.gated_of_not_busy _ hb] at ht
      rcases s.dispatchCommand_cases op with ⟨-, e⟩ | ⟨rfl, e⟩ | ⟨d, hd, e⟩
      · exact .inr (.inl ⟨rfl, ht.trans e⟩)
      · exact .inr (.inr ⟨hb, .inr (.inr (.inr (.inr (.inr ⟨.inr rfl, ht.trans e⟩))))⟩)
      · rcases started d hd hb (ht.trans e) with r | r
        · exact .inr (.inr ⟨hb, .inr (.inr (.inr (.inl r)))⟩)
        · exact .inr (.inr ⟨hb, .inr (.inr (.inr (.inr (.inl r))))⟩)
  | nop =>
    have ht := (Host.Outcome.next.inj h).symm
    refine .inr (.inl ⟨rfl, ht.trans ?_⟩)
    unfold State.gated
    split <;> rfl
  | enc =>
    have ht := (Host.Outcome.next.inj h).symm
    by_cases hb : s.state = .busy
    · exact .inr (.inl ⟨rfl, by rw [ht, State.gated_of_busy _ hb]⟩)
    · rw [State.gated_of_not_busy _ hb] at ht
      rcases started .encrypt rfl hb ht with r | r
      · exact .inr (.inr ⟨hb, .inr (.inr (.inr (.inl r)))⟩)
      · exact .inr (.inr ⟨hb, .inr (.inr (.inr (.inr (.inl r))))⟩)
  | dec =>
    have ht := (Host.Outcome.next.inj h).symm
    by_cases hb : s.state = .busy
    · exact .inr (.inl ⟨rfl, by rw [ht, State.gated_of_busy _ hb]⟩)
    · rw [State.gated_of_not_busy _ hb] at ht
      rcases started .decrypt rfl hb ht with r | r
      · exact .inr (.inr ⟨hb, .inr (.inr (.inr (.inl r)))⟩)
      · exact .inr (.inr ⟨hb, .inr (.inr (.inr (.inr (.inl r))))⟩)
  | clr =>
    have ht := (Host.Outcome.next.inj h).symm
    by_cases hb : s.state = .busy
    · exact .inr (.inl ⟨rfl, by rw [ht, State.gated_of_busy _ hb]⟩)
    · exact .inr (.inr ⟨hb, .inr (.inr (.inr (.inr (.inr ⟨.inl rfl, by rw [ht, State.gated_of_not_busy _ hb]⟩))))⟩)

/-! The step. -/

/-- Everything a step can do when it answers a next state: an instruction, an ENGINE turn, RESET, or nothing. -/
theorem step_cases {s t : State} (h : step s = .next t) :
    (∃ r es i, s.events = .host r :: es ∧ decode s.cfg r = .ok i ∧ exec i { s with events := es } = .next t) ∨
    (∃ es, s.events = .engine :: es ∧ engineStep { s with events := es } = .next t) ∨
    (s.events = [] ∧ s.state = .busy ∧ engineStep s = .next t) ∨
    (∃ es, s.events = .reset :: es ∧ t = { s with events := es }.takeReset) ∨
    (s.events = [] ∧ s.state ≠ .busy ∧ t = s) := by
  unfold step State.nextEvent at h
  rcases he : s.events with _ | ⟨e, es⟩
  · simp only [he] at h
    by_cases hb : s.state = .busy
    · simp only [hb, if_true] at h
      exact .inr (.inr (.inl ⟨rfl, hb, h⟩))
    · simp only [hb, if_false] at h
      exact .inr (.inr (.inr (.inr ⟨rfl, hb, by simpa using h.symm⟩)))
  · simp only [he] at h
    cases e with
    | host r =>
      simp only at h
      cases hd : decode s.cfg r with
      | ok i => exact .inl ⟨r, es, i, rfl, hd, by simpa only [hd] using h⟩
      | error e => simp [hd] at h
    | engine => exact .inr (.inl ⟨es, rfl, h⟩)
    | reset => exact .inr (.inr (.inr (.inl ⟨es, rfl, by simpa using h.symm⟩)))

/-! Runs. -/

@[simp] theorem runSteps_zero (s : State) : runSteps 0 s = .next s := rfl

theorem runSteps_succ {k : Nat} {s t : State} (h : step s = .next t) : runSteps (k + 1) s = runSteps k t := by
  have h' : Sys2Proof.core.step s = .next t := h
  simp only [runSteps, Host.Core.run, h']
  rfl

/-- A run cut in two. -/
theorem runSteps_add {j k : Nat} {s t : State} (h : runSteps j s = .next t) : runSteps (j + k) s = runSteps k t := by
  induction j generalizing s with
  | zero =>
    have : s = t := by simpa using h
    simp [this]
  | succ j ih =>
    cases hs : step s with
    | next u =>
      rw [runSteps_succ hs] at h
      rw [Nat.add_right_comm, runSteps_succ hs, ih h]
    | fault f =>
      have hs' : Sys2Proof.core.step s = .fault f := hs
      simp only [runSteps, Host.Core.run, hs'] at h
      cases h
    | refused q =>
      have hs' : Sys2Proof.core.step s = .refused q := hs
      simp only [runSteps, Host.Core.run, hs'] at h
      cases h

end Sys2Proof.Machine
end

