-- ==== Sys2Proof/Tests/Slice0.lean ====
section
/-! SUPPORT. Tests, each expected value taken from the vectors of spec/95_test_vectors.md or written out from
spec/30_encoding.md, and the witnesses of the statements' hypotheses. -/

namespace Sys2Proof.Tests

open Sys2Proof.Machine

/-! ## The smoke test of WellFormed: one ill-formed term for each check, `LEN_W = 8` -/

def c8 : Config := ⟨8, 8⟩

theorem test_wellFormed_refuses :
    (Instr.wrLen 256).wellFormed c8 = false ∧ (Instr.wrIdx 256).wellFormed c8 = false ∧
    (Instr.rdIbuf 256).wellFormed c8 = false ∧ (Instr.rdObuf 256).wellFormed c8 = false ∧
    (Instr.rdUnmapped 256).wellFormed c8 = false ∧ (Instr.wrIbuf 256 0x00#8).wellFormed c8 = false ∧
    (Instr.wrObuf 256 0x00#8).wellFormed c8 = false ∧ (Instr.wrUnmapped 256 0x00#8).wellFormed c8 = false := by decide

theorem test_wellFormed_accepts_the_widest :
    (Instr.wrLen 255).wellFormed c8 = true ∧ (Instr.rdIbuf 255).wellFormed c8 = true := by decide

/-- `MAX_CHARS >= 1` and `MAX_CHARS < 2^LEN_W` (00_scope.md R5, R6). -/
theorem test_config_wf : ¬ Config.wf ⟨0, 8⟩ ∧ ¬ Config.wf ⟨256, 8⟩ ∧ Config.wf ⟨255, 8⟩ ∧ Config.wf ⟨1, 1⟩ := by decide

/-- A buffer out of order, with a repeat, and in form. -/
theorem test_memory_wf : ¬ Memory.wf [(1, 0#8), (0, 0#8)] ∧ ¬ Memory.wf [(1, 0#8), (1, 0#8)] ∧
    Memory.wf [(0, 0#8), (7, 0#8)] := by decide

/-! ## Decoding: every constructor, its word written out from 30_encoding.md R47 and R48 -/

/-- A decoded instruction, for comparison. -/
def decoded (r : Request) : Option Instr :=
  match decode c8 r with
  | .ok i => some i
  | .error _ => none

def o : Bool := false
def l : Bool := true

theorem test_decode_reg_reads :
    decoded (.transaction [o, o, o, o, o, o]) = some .rdCtrl ∧
    decoded (.transaction [o, o, o, o, o, l]) = some .rdStatus ∧
    decoded (.transaction [o, o, o, o, l, o]) = some .rdKey ∧
    decoded (.transaction [o, o, o, o, l, l]) = some .rdLen ∧
    decoded (.transaction [o, o, o, l, o, o]) = some .rdKs ∧
    decoded (.transaction [o, o, o, l, o, l]) = some .rdIdx ∧
    decoded (.transaction [o, o, o, l, l, o]) = some .rdReg6 ∧
    decoded (.transaction [o, o, o, l, l, l]) = some .rdReg7 := by decide

/-- Data 0x74 = 01110100, LEN 9 = 00001001, command ENC = 01. -/
theorem test_decode_reg_writes :
    decoded (.transaction [l, o, o, o, o, o, o, l]) = some (.wrCtrl 0b01#2) ∧
    decoded (.transaction [l, o, o, o, o, l, o, l, l, l, o, l, o, o]) = some (.wrStatus 0x74#8) ∧
    decoded (.transaction [l, o, o, o, l, o, o, l, l, l, o, l, o, o]) = some (.wrKey 0x74#8) ∧
    decoded (.transaction [l, o, o, o, l, l, o, o, o, o, l, o, o, l]) = some (.wrLen 9) ∧
    decoded (.transaction [l, o, o, l, o, o, o, l, l, l, o, l, o, o]) = some (.wrKs 0x74#8) ∧
    decoded (.transaction [l, o, o, l, o, l, o, o, o, o, l, o, o, l]) = some (.wrIdx 9) ∧
    decoded (.transaction [l, o, o, l, l, o, o, l, l, l, o, l, o, o]) = some (.wrReg6 0x74#8) ∧
    decoded (.transaction [l, o, o, l, l, l, o, l, l, l, o, l, o, o]) = some (.wrReg7 0x74#8) := by decide

/-- Index 7 = 00000111, data 0xEE = 11101110. -/
theorem test_decode_buf :
    decoded (.transaction [o, o, l, o, o, o, o, o, l, l, l]) = some (.rdIbuf 7) ∧
    decoded (.transaction [o, l, o, o, o, o, o, o, l, l, l]) = some (.rdObuf 7) ∧
    decoded (.transaction [o, l, l, o, o, o, o, o, l, l, l]) = some (.rdUnmapped 7) ∧
    decoded (.transaction [l, o, l, o, o, o, o, o, l, l, l, l, l, l, o, l, l, l, o]) = some (.wrIbuf 7 0xEE#8) ∧
    decoded (.transaction [l, l, o, o, o, o, o, o, l, l, l, l, l, l, o, l, l, l, o]) = some (.wrObuf 7 0xEE#8) ∧
    decoded (.transaction [l, l, l, o, o, o, o, o, l, l, l, l, l, l, o, l, l, l, o]) =
      some (.wrUnmapped 7 0xEE#8) := by decide

theorem test_decode_commands :
    decoded (.command 0b00#2) = some .nop ∧ decoded (.command 0b01#2) = some .enc ∧
    decoded (.command 0b10#2) = some .dec ∧ decoded (.command 0b11#2) = some .clr := by decide

theorem test_decode_rejects :
    decoded (.transaction []) = none ∧ decoded (.transaction [l, o, o, o, o]) = none ∧
    decoded (.transaction [o, o, o, o, o, l, o]) = none ∧ decoded (.transaction [l, o, o, o, o, o, o]) = none := by
  decide

/-- The words of opcode_table.json. -/
theorem test_table_words :
    decodeTableWord 8 0x05 = some .rdIdx ∧ decodeTableWord 8 0x22 = some (.wrKey 0x00#8) ∧
    decodeTableWord 6 0x23 = some (.wrLen 0) ∧ decodeTableWord 3 0b101 = some (.wrIbuf 0 0x00#8) ∧
    decodeTableWord 3 0b010 = some (.rdObuf 0) ∧ decodeTableWord 2 0b10 = some .dec ∧
    decodeTableWord 8 0x08 = none ∧ decodeTableWord 3 0b100 = none := by decide

/-! ## The datapath: sections 2.1 to 2.3 of 95_test_vectors.md -/

/-- K2, K5, K7, K8, K11, K12, K16. -/
theorem test_scramble :
    scramble 0x01#8 = 0x24#8 ∧ scramble 0x08#8 = 0x05#8 ∧ scramble 0x20#8 = 0x04#8 ∧ scramble 0x74#8 = 0x8E#8 ∧
    scramble 0x8E#8 = 0xD5#8 ∧ scramble 0xD5#8 = 0xBE#8 ∧ scramble 0xFF#8 = 0xFF#8 := by decide

/-- B1, B3, B6, B7, B9, B14, B17, B18, B19, B20. -/
theorem test_rotator :
    encOne 0x61#8 0x8E#8 = 0x58#8 ∧ encOne 0x61#8 0xFE#8 = 0x58#8 ∧ encOne 0x61#8 0xFF#8 = 0xB0#8 ∧
    encOne 0x61#8 0x08#8 = 0x61#8 ∧ encOne 0x80#8 0x01#8 = 0x01#8 ∧ decOne 0x58#8 0x8E#8 = 0x61#8 ∧
    decOne 0xB0#8 0xFF#8 = 0x61#8 ∧ decOne 0x58#8 0x08#8 = 0x58#8 ∧ decOne 0x01#8 0x01#8 = 0x80#8 ∧
    decOne 0x80#8 0x07#8 = 0x01#8 := by decide

/-- T1, T3, T4, T16, T17. -/
theorem test_transform :
    transform [] 0 0x74#8 .encrypt = ([], 0x74#8) ∧
    transform [0x61#8, 0x62#8, 0x63#8] 3 0x74#8 .encrypt = ([0x58#8, 0x4C#8, 0xD8#8], 0xBE#8) ∧
    transform [0x58#8, 0x4C#8, 0xD8#8] 3 0x74#8 .decrypt = ([0x61#8, 0x62#8, 0x63#8], 0xBE#8) ∧
    transform [0x61#8, 0x62#8, 0x63#8] 2 0x74#8 .encrypt = ([0x58#8, 0x4C#8], 0xD5#8) ∧
    transform [0x58#8, 0x4C#8, 0xD8#8] 3 0x00#8 .decrypt = ([0x85#8, 0xC4#8, 0x8D#8], 0x94#8) := by decide

/-! ## Transactions: section 2.5, from the end state of program P1 -/

/-- The end state of P1. -/
def p1 : State := { State.reset with
  state := .done, key := 0x74#8, len := 3, ks := 0xBE#8, idx := 3,
  ibuf := [(0, 0x61#8), (1, 0x62#8), (2, 0x63#8)], obuf := [(0, 0x58#8), (1, 0x4C#8), (2, 0xD8#8)] }

/-- A part of the next state, if there is one. -/
def part {α : Type} (r : Result) (f : State → α) : Option α :=
  match r with
  | .next t => some (f t)
  | .fault _ => none
  | .refused _ => none

/-- What a read answers, and the state it leaves. -/
def answers (i : Instr) (s : State) (r : Reply) : Prop := part (exec i s) id = some { s with replies := [r] }

theorem test_A1_rdStatus : answers .rdStatus p1 (.byte 0x02#8) := by unfold answers; decide
theorem test_A2_rdKey : answers .rdKey p1 (.byte 0x74#8) := by unfold answers; decide
theorem test_A3_rdLen : answers .rdLen p1 (.count 3) := by unfold answers; decide
theorem test_A4_rdKs : answers .rdKs p1 (.byte 0xBE#8) := by unfold answers; decide
theorem test_A5_rdIdx : answers .rdIdx p1 (.count 3) := by unfold answers; decide
theorem test_A6_rdCtrl : answers .rdCtrl p1 (.ctrl 0b00#2) := by unfold answers; decide
theorem test_A7_rdReg6_rdReg7 : answers .rdReg6 p1 (.byte 0x00#8) ∧ answers .rdReg7 p1 (.byte 0x00#8) := by
  unfold answers; decide
theorem test_A8_rdIbuf : answers (.rdIbuf 1) p1 (.byte 0x62#8) := by unfold answers; decide
theorem test_A9_rdObuf : answers (.rdObuf 2) p1 (.byte 0xD8#8) := by unfold answers; decide
theorem test_A11_out_of_range : answers (.rdIbuf 8) p1 (.byte 0x00#8) ∧ answers (.rdObuf 8) p1 (.byte 0x00#8) ∧
    answers (.rdIbuf 255) p1 (.byte 0x00#8) := by unfold answers; decide
theorem test_A12_rdUnmapped : answers (.rdUnmapped 0) p1 (.byte 0x00#8) := by unfold answers; decide
theorem test_A13_wrKey : part (exec (.wrKey 0x12#8) p1) id = some { p1 with key := 0x12#8 } := by decide
theorem test_A14_wrLen : part (exec (.wrLen 255) p1) id = some { p1 with len := 255 } := by decide
theorem test_A15_wrIbuf : part (exec (.wrIbuf 7 0xEE#8) p1) (·.ibuf) =
    some [(0, 0x61#8), (1, 0x62#8), (2, 0x63#8), (7, 0xEE#8)] := by decide
theorem test_A16_read_only_registers : part (exec (.wrStatus 0x03#8) p1) id = some p1 ∧
    part (exec (.wrKs 0x11#8) p1) id = some p1 ∧ part (exec (.wrIdx 0) p1) id = some p1 := by decide
theorem test_A17_wrObuf : part (exec (.wrObuf 0 0x00#8) p1) id = some p1 := by decide
theorem test_A18_unmapped_writes : part (exec (.wrReg6 0x55#8) p1) id = some p1 ∧
    part (exec (.wrReg7 0x55#8) p1) id = some p1 ∧ part (exec (.wrUnmapped 3 0x55#8) p1) id = some p1 := by decide
theorem test_A19_wrIbuf_out_of_range : part (exec (.wrIbuf 8 0x99#8) p1) id = some p1 := by decide

/-! ## Commands: sections 2.4 and 2.6 -/

/-- The concrete instance of section 2.4: `KEY = 74`, `KS = AA`, `IDX = 2`, `DIR = 1`. -/
def m24 (st : EngineState) (len : Nat) : State := { State.reset with
  state := st, dir := .decrypt, key := 0x74#8, len := len, ks := 0xAA#8, idx := 2 }

theorem test_M2_enc : part (exec .enc (m24 .idle 3)) id =
    some { m24 .busy 3 with dir := .encrypt, ks := 0x74#8, idx := 0 } := by decide
theorem test_M10_dec : part (exec .dec (m24 .done 3)) id = some { m24 .busy 3 with ks := 0x74#8, idx := 0 } := by decide
theorem test_X1_longest_accepted : part (exec .enc (m24 .idle 8)) (·.state) = some .busy := by decide
theorem test_X2_too_long_rejected : part (exec .enc (m24 .idle 9)) id = some (m24 .error 9) := by decide
theorem test_M11_dec_rejected : part (exec .dec (m24 .done 9)) id = some (m24 .error 9) := by decide
theorem test_M18_clr : part (exec .clr (m24 .error 9)) id = some (m24 .idle 9) := by decide
theorem test_M13_nop : part (exec .nop (m24 .error 9)) id = some (m24 .error 9) := by decide
theorem test_wrCtrl_enc : part (exec (.wrCtrl 0b01#2) (m24 .error 3)) id =
    some { m24 .busy 3 with dir := .encrypt, ks := 0x74#8, idx := 0 } := by decide
theorem test_M20_M22_gated : part (exec .enc (m24 .busy 3)) id = some (m24 .busy 3) ∧
    part (exec .clr (m24 .busy 3)) id = some (m24 .busy 3) ∧
    part (exec (.wrCtrl 0b11#2) (m24 .busy 3)) id = some (m24 .busy 3) := by decide
theorem test_A20_writes_gated : part (exec (.wrKey 0x55#8) (m24 .busy 3)) id = some (m24 .busy 3) ∧
    part (exec (.wrLen 9) (m24 .busy 3)) id = some (m24 .busy 3) ∧
    part (exec (.wrIbuf 5 0xEE#8) (m24 .busy 3)) id = some (m24 .busy 3) := by decide

/-! ## ENGINE STEP and RESET: sections 2.4 and 2.7 -/

/-- A run of `len` bytes, `idx` of them done. -/
def running (d : Direction) (ks : Byte) (idx len : Nat) (i o : Memory) : State := { State.reset with
  state := .busy, dir := d, key := 0x74#8, len := len, ks := ks, idx := idx, ibuf := i, obuf := o }

def abc : Memory := [(0, 0x61#8), (1, 0x62#8), (2, 0x63#8)]

theorem test_E1_byte_step : part (engineStep (running .encrypt 0x74#8 0 3 abc [])) id =
    some (running .encrypt 0x8E#8 1 3 abc [(0, 0x58#8)]) := by decide
theorem test_E3_byte_step : part (engineStep (running .encrypt 0xD5#8 2 3 abc [])) id =
    some (running .encrypt 0xBE#8 3 3 abc [(2, 0xD8#8)]) := by decide
theorem test_E4_completion : part (engineStep (running .encrypt 0xBE#8 3 3 abc [])) id =
    some { running .encrypt 0xBE#8 3 3 abc [] with state := .done } := by decide
theorem test_E5_decrypt : part (engineStep (running .decrypt 0x74#8 0 3 [(0, 0x58#8)] [])) id =
    some (running .decrypt 0x8E#8 1 3 [(0, 0x58#8)] [(0, 0x61#8)]) := by decide
theorem test_E7_no_step_enabled : part (engineStep p1) id = some p1 := by decide

/-- Z2: RESET during a run; the second argument of `afterReset` counts the RESETs. -/
theorem test_Z2_reset : part (step { running .decrypt 0x94#8 3 8 abc [] with events := [.reset] }) id =
    some (State.afterReset c8 1 [] []) := by decide

/-! ## Placing a word, and a program: the first lines of P1 -/

theorem test_fetch_word : part (step (State.reset.withFetchWord 8 0x01)) (·.replies) = some [.byte 0x00#8] := by decide
theorem test_encrypt_operation : encryptOp 0x74#8 [0x61#8, 0x62#8] 1 =
    [.wrKey 0x74#8, .wrIbuf 0 0x61#8, .wrIbuf 1 0x62#8, .wrLen 2, .wrCtrl 0b01#2, .rdStatus, .rdObuf 0, .rdObuf 1] := by
  decide

/-! ## Witnesses: states and operands that meet the hypotheses of the statements, clause by clause -/

/-- The state of `running` at index 7 of 8: the last byte step of a run of the greatest length, key stream of 0x74. -/
def last : State := running .encrypt 0xFF#8 7 8 abc [(6, 0x00#8)]

/-- `last` after its byte step. -/
def full : State := running .encrypt 0xFF#8 8 8 abc [(6, 0x00#8)]

theorem last_inv : last.Inv := by
  constructor <;> decide
theorem full_inv : full.Inv := by
  constructor <;> decide
theorem p1_inv : p1.Inv := by
  constructor <;> decide

theorem witness_DecodeEncode : (Instr.wrIbuf 255 0xFF#8).wellFormed c8 = true ∧ (Instr.wrLen 0).wellFormed c8 = true := by
  decide
theorem witness_EncodeDecode : decode c8 (.transaction [o, o, o, o, o, l]) = .ok .rdStatus := rfl
theorem witness_EveryHeaderDecodes :
    (0x27 < 64 ∧ 0x27 / 8 % 4 = 0 ∧ (toBits 8 0xFF).length = regDataBits c8 0x27) ∧
    (0b111 < 8 ∧ 0b111 % 4 ≠ 0 ∧ (toBits 16 0xFFFF).length = bufOperandBits c8 0b111) := by decide
theorem witness_StepRunsDecodedRequest :
    ({ p1 with events := [.host (.command 0b11#2)] } : State).events = .host (.command 0b11#2) :: [] ∧
    decode p1.cfg (.command 0b11#2) = .ok .clr := ⟨rfl, rfl⟩
theorem witness_FetchWordRunsNext : decode p1.cfg (tableRequest p1.cfg 8 0x27) = .ok (.wrReg7 0x00#8) ∧
    decode p1.cfg (tableRequest p1.cfg 3 0b001) = .ok (.rdIbuf 0) ∧
    decode p1.cfg (tableRequest p1.cfg 2 0b01) = .ok .enc := ⟨rfl, rfl, rfl⟩
theorem witness_StepWithoutHost :
    ({ last with events := [.engine] } : State).events = .engine :: [] ∧
    ({ last with events := [.reset] } : State).events = .reset :: [] ∧
    (last.events = [] ∧ last.state = .busy) ∧ (p1.events = [] ∧ p1.state ≠ .busy) := by decide
theorem witness_ResetFromAnyState : ({ last with events := [.reset] } : State).events = .reset :: [] := rfl
theorem witness_StatusRead :
    (∀ st : EngineState, ∀ d : Direction, ({ p1 with state := st, dir := d } : State).state = st ∧
      ({ p1 with state := st, dir := d } : State).dir = d) ∧
    (Instr.wrCtrl 0b01#2).starts = some .encrypt ∧ (Instr.wrCtrl 0b10#2).starts = some .decrypt :=
  ⟨fun _ _ => ⟨rfl, rfl⟩, rfl, rfl⟩
theorem witness_RegisterReads : full.Inv := full_inv
theorem witness_BufferReads : 7 < 2 ^ p1.cfg.lenW ∧ 8 < 2 ^ p1.cfg.lenW ∧ 255 < 2 ^ p1.cfg.lenW := by decide
theorem witness_ReadAsZeroWriteIgnored : (8 < 2 ^ p1.cfg.lenW ∧ p1.cfg.maxChars ≤ 8) ∧
    (255 < 2 ^ p1.cfg.lenW ∧ p1.cfg.maxChars ≤ 255) := by decide
theorem witness_ReadsHaveNoSideEffect : (Instr.rdIbuf 2).isWrite = false ∧
    exec (.rdIbuf 2) p1 = .next { p1 with replies := [.byte 0x63#8] } ∧
    (∀ a, Instr.rdIbuf 2 = .rdIbuf a → a < p1.cfg.maxChars → p1.ibuf.read? a ≠ none) ∧
    (∀ a, Instr.rdIbuf 2 = .rdObuf a → a < p1.cfg.maxChars → p1.obuf.read? a ≠ none) := by
  refine ⟨rfl, rfl, ?_, ?_⟩
  · rintro a h -
    cases h
    decide
  · rintro a h
    cases h
theorem witness_WriteKey : p1.state ≠ .busy ∧ last.state = .busy := by decide
theorem witness_WriteLen : (255 < 2 ^ p1.cfg.lenW ∧ p1.state ≠ .busy) ∧ (0 < 2 ^ last.cfg.lenW ∧ last.state = .busy) := by
  decide
theorem witness_WriteIbuf : (7 < 2 ^ p1.cfg.lenW ∧ p1.state ≠ .busy ∧ 7 < p1.cfg.maxChars) ∧
    (7 < 2 ^ last.cfg.lenW ∧ last.state = .busy) ∧ (8 < 2 ^ p1.cfg.lenW ∧ p1.cfg.maxChars ≤ 8) := by decide
theorem witness_BusyGate_write : last.state = .busy ∧ (Instr.wrIbuf 255 0x00#8).wellFormed last.cfg = true ∧
    (Instr.wrIbuf 255 0x00#8).isWrite = true := by decide
theorem witness_BusyGate_read : (Instr.rdObuf 255).wellFormed last.cfg = true ∧ (Instr.rdObuf 255).isWrite = false ∧
    Instr.rdObuf 255 ≠ .rdStatus := by decide
theorem witness_BusyGate_end : full.state = .busy ∧ step full = .next { full with state := .done } ∧
    ({ full with state := .done } : State).state ≠ .busy := ⟨rfl, rfl, by decide⟩
theorem witness_BusyGate_reset : ({ last with events := [.reset] } : State).state = .busy ∧
    step { last with events := [.reset] } = .next (State.afterReset c8 1 [] []) ∧
    (State.afterReset c8 1 [] []).state ≠ .busy := ⟨rfl, rfl, by decide⟩
theorem witness_TooWideOperandRefused : 2 ^ p1.cfg.lenW ≤ 256 := by decide
theorem witness_WriteCtrlDispatches :
    last.state = .busy ∧ ((m24 .done 8).state ≠ .busy ∧ (m24 .done 8).len ≤ (m24 .done 8).cfg.maxChars) ∧
    ((m24 .error 9).state ≠ .busy ∧ (m24 .error 9).cfg.maxChars < (m24 .error 9).len) := by decide
theorem witness_StartCommandsAccepted : (m24 .error 8).state ≠ .busy ∧ (m24 .error 8).len ≤ (m24 .error 8).cfg.maxChars ∧
    (m24 .idle 0).state ≠ .busy ∧ (m24 .idle 0).len ≤ (m24 .idle 0).cfg.maxChars := by decide
theorem witness_InvalidLength_raised : (m24 .idle 9).state ≠ .busy ∧ (m24 .idle 9).cfg.maxChars < (m24 .idle 9).len ∧
    (m24 .error 9).state = .error := by decide
theorem witness_InvalidLength_only_there :
    step { m24 .idle 9 with events := [.host (.command 0b01#2)] } = .next (m24 .error 9) ∧
    (m24 .idle 9).state ≠ .error ∧ (m24 .error 9).state = .error := ⟨rfl, by decide, rfl⟩
theorem witness_ClearSetsIdle : (m24 .error 9).state ≠ .busy ∧ last.state = .busy := by decide
theorem witness_ErrorIsLeftInThreeWays_clear : (m24 .error 9).state = .error ∧
    step { m24 .error 9 with events := [.host (.command 0b11#2)] } = .next (m24 .idle 9) ∧
    (m24 .idle 9).state ≠ .error := ⟨rfl, rfl, by decide⟩
theorem witness_ErrorIsLeftInThreeWays_stay : (m24 .error 9).state = .error ∧
    (m24 .error 9).cfg.maxChars < (m24 .error 9).len := by decide
theorem witness_ByteStep : last.Inv ∧ last.state = .busy ∧ last.idx < last.len ∧ last.dir = .encrypt :=
  ⟨last_inv, rfl, by decide, rfl⟩
theorem witness_ByteStep_decrypt : ({ last with dir := .decrypt } : State).Inv ∧
    ({ last with dir := .decrypt } : State).dir = .decrypt := by
  refine ⟨?_, rfl⟩
  constructor <;> decide
theorem witness_CompletionStep : (full.state = .busy ∧ full.idx = full.len) ∧ p1.state ≠ .busy := by decide
theorem witness_RunFinishes : last.Inv ∧ last.state = .busy ∧ last.events = [] ∧ 1 ≤ last.len - last.idx :=
  ⟨last_inv, rfl, rfl, by decide⟩
theorem witness_KeyStreamConverges : (8 ≤ 8 ∧ 7 ≤ 7) ∧ (0 < 1 ∧ keyAfter 0xFF#8 1 = 0xFF#8) := by decide
theorem witness_TransformBytes : 2 ≤ [0x61#8, 0x62#8].length ∧ 1 < 2 ∧ [0x61#8, 0x62#8][1]? = some 0x62#8 := by decide
theorem witness_TransformRoundTrip : 2 ≤ [0x61#8, 0x62#8].length := by decide
theorem witness_KeyIndependentOfData : 2 ≤ [0x61#8, 0x62#8].length ∧ 2 ≤ [0x00#8, 0xFF#8, 0x01#8].length ∧ 2 ≤ 2 := by
  decide
theorem witness_EmptyInput : (m24 .error 0).state ≠ .busy ∧ (m24 .error 0).len = 0 := by decide
theorem witness_ResetMeetsInvariant : Config.wf ⟨1, 1⟩ ∧ Config.wf c8 := by decide
theorem witness_StepKeepsInvariant : full.Inv ∧ step full = .next { full with state := .done } := ⟨full_inv, rfl⟩
theorem witness_StepStopsOnlyOnMalformedBits : ({ p1 with events := [.host (.transaction [])] } : State).Inv ∧
    step { p1 with events := [.host (.transaction [])] } = .refused (.malformedTransaction .truncated) := by
  refine ⟨?_, rfl⟩
  constructor <;> decide

/-- Events the interface can express. -/
def someEvents : List Event := [.engine, .host (.command 0b11#2), .reset, .host (encode c8 (.wrIbuf 255 0xFF#8))]

theorem witness_ExpressibleRunsAreSafe : ({ last with events := someEvents } : State).Inv ∧
    ∀ e ∈ ({ last with events := someEvents } : State).events, e.expressible last.cfg = true := by
  refine ⟨?_, by decide⟩
  constructor <;> decide

/-- STATE, DIR, KS and IDX change together at an accepted command. -/
theorem witness_WritersOfState_accept :
    step { m24 .idle 8 with events := [.host (.command 0b01#2)] } =
      .next { m24 .busy 8 with dir := .encrypt, ks := 0x74#8, idx := 0 } ∧
    EngineState.busy ≠ .idle ∧ Direction.encrypt ≠ .decrypt ∧ 0x74#8 ≠ 0xAA#8 ∧ 0 ≠ 2 := ⟨rfl, by decide⟩
/-- KEY, LEN and a byte of IBUF change at their writes. -/
theorem witness_WritersOfState_writes :
    step { p1 with events := [.host (encode c8 (.wrKey 0x12#8))] } = .next { p1 with key := 0x12#8 } ∧
    step { p1 with events := [.host (encode c8 (.wrLen 255))] } = .next { p1 with len := 255 } ∧
    step { p1 with events := [.host (encode c8 (.wrIbuf 0 0x58#8))] } =
      .next { p1 with ibuf := [(0, 0x58#8), (1, 0x62#8), (2, 0x63#8)] } := ⟨rfl, rfl, rfl⟩
/-- A byte of OBUF changes at a byte step. -/
theorem witness_WritersOfState_byteStep :
    part (step (running .encrypt 0x74#8 0 3 abc [(0, 0x00#8)])) (·.bufferByte .obuf 0) = some 0x58#8 ∧
    (running .encrypt 0x74#8 0 3 abc [(0, 0x00#8)]).bufferByte .obuf 0 = 0x00#8 := by decide

theorem witness_ResultStaysUntilNextRun :
    let s : State := { p1 with events := [.host (.command 0b11#2)] }
    s.state = .done ∧ step s = .next { p1 with state := .idle } ∧ (∀ d, ¬ s.acceptsNext d) ∧ ¬ s.resetNext := by
  refine ⟨rfl, rfl, ?_, ?_⟩
  · rintro d ⟨-, -, i, ⟨r, es, he, hd⟩, hi⟩
    cases he
    cases hd
    cases hi
  · rintro ⟨es, he⟩
    cases he

/-- One byte with a poll before its byte step, then the completion step. -/
def pollThenStep : List Event := [.host (encode c8 .rdStatus), .engine]

/-- `m24` with a run of one byte issued and the events of that run. -/
def oneByteRun : State := { m24 .idle 1 with
  events := .host (encode c8 .enc) :: (pollThenStep ++ [.engine, .host (encode c8 .rdKs)]) }

theorem witness_RunComputesTransform :
    oneByteRun.state ≠ .busy ∧ oneByteRun.len ≤ oneByteRun.cfg.maxChars ∧ Instr.enc.starts = some .encrypt ∧
    oneByteRun.events = .host (encode oneByteRun.cfg .enc) :: (pollThenStep ++ [.engine, .host (encode c8 .rdKs)]) ∧
    (∀ e ∈ pollThenStep, e ≠ .reset ∧ e.expressible oneByteRun.cfg = true) ∧
    pollThenStep.count .engine ≤ oneByteRun.len ∧ pollThenStep.count .engine = oneByteRun.len := by decide

/-- The same run from another state (DONE, other KS and IDX), with another interleaving. -/
def oneByteRun' : State := { m24 .done 1 with
  ks := 0x00#8, idx := 5, events := .host (encode c8 (.wrCtrl 0b01#2)) :: ([.engine] ++ [.engine]) }

theorem witness_RunsAreDeterministic :
    oneByteRun.state ≠ .busy ∧ oneByteRun'.state ≠ .busy ∧ oneByteRun.len ≤ oneByteRun.cfg.maxChars ∧
    oneByteRun'.len ≤ oneByteRun'.cfg.maxChars ∧ Instr.enc.starts = some .encrypt ∧
    (Instr.wrCtrl 0b01#2).starts = some .encrypt ∧ oneByteRun.key = oneByteRun'.key ∧
    oneByteRun.len = oneByteRun'.len ∧
    (∀ a, a < oneByteRun.len → oneByteRun.bufferByte .ibuf a = oneByteRun'.bufferByte .ibuf a) ∧
    oneByteRun.events = .host (encode oneByteRun.cfg .enc) ::
      (pollThenStep ++ .engine :: [.host (encode c8 .rdKs)]) ∧
    oneByteRun'.events = .host (encode oneByteRun'.cfg (.wrCtrl 0b01#2)) :: ([.engine] ++ .engine :: []) ∧
    (∀ e ∈ pollThenStep, e ≠ .reset ∧ e.expressible oneByteRun.cfg = true) ∧
    (∀ e ∈ [Event.engine], e ≠ .reset ∧ e.expressible oneByteRun'.cfg = true) ∧
    pollThenStep.count .engine = oneByteRun.len ∧ [Event.engine].count .engine = oneByteRun.len := by
  refine ⟨by decide, by decide, by decide, by decide, rfl, rfl, rfl, rfl, fun _ _ => rfl, rfl, rfl, by decide, by decide,
    rfl, rfl⟩

/-- A run of one byte: two ENGINE turns around one poll. -/
def oneByteWait : List Event := [.engine, .host (encode c8 .rdStatus), .engine]

theorem witness_HostSequenceComputesTransform :
    let s : State := { p1 with events := programEvents c8 (setupOp .encrypt 0x74#8 [0x61#8]) ++
      (oneByteWait ++ (programEvents c8 (readoutOp 1) ++ [])) }
    s.cfg.wf ∧ s.state ≠ .busy ∧ (∀ e ∈ oneByteWait, e = .engine ∨ e = .host (encode s.cfg .rdStatus)) ∧
    [0x61#8].length ≤ s.cfg.maxChars ∧ [0x61#8].length + 1 ≤ oneByteWait.count .engine ∧
    s.events = programEvents s.cfg (setupOp .encrypt 0x74#8 [0x61#8]) ++
      (oneByteWait ++ (programEvents s.cfg (readoutOp [0x61#8].length) ++ [])) :=
  ⟨by decide, by decide, by decide, by decide, by decide, rfl⟩
theorem witness_HostSequenceComputesTransform_too_long :
    let S : List Byte := List.replicate 9 0x61#8
    let s : State := { p1 with events := programEvents c8 (setupOp .decrypt 0x74#8 S) ++ [] }
    s.cfg.wf ∧ s.state ≠ .busy ∧ (∀ e ∈ ([] : List Event), e = .engine ∨ e = .host (encode s.cfg .rdStatus)) ∧
    s.cfg.maxChars < S.length ∧ S.length < 2 ^ s.cfg.lenW ∧
    s.events = programEvents s.cfg (setupOp .decrypt 0x74#8 S) ++ [] :=
  ⟨by decide, by decide, by decide, by decide, by decide, rfl⟩
/-- With `LEN_W = 8`, 256 bytes: `WR LEN, 256` is refused and is not `WR LEN, 0`. -/
theorem test_too_wide_line_is_refused :
    decode c8 (hostRequest c8 (.wrLen 256)) = .error .truncated ∧
    decode c8 (hostRequest c8 (.wrLen 255)) = .ok (.wrLen 255) := by decide
theorem witness_InexpressibleSequenceRefused :
    let S : List Byte := List.replicate 2 0x61#8
    let s : State := { p1 with cfg := ⟨1, 1⟩, events := programEvents ⟨1, 1⟩ (setupOp .encrypt 0x74#8 S) ++ [] }
    2 ^ s.cfg.lenW ≤ S.length ∧ s.events = programEvents s.cfg (setupOp .encrypt 0x74#8 S) ++ [] ∧
    (setupOp .encrypt 0x74#8 S).length ≤ 4 + 1 :=
  ⟨by decide, rfl, by decide⟩
theorem witness_HardwareRoundTrip :
    let S : List Byte := [0x61#8]
    let first := programEvents c8 (setupOp .encrypt 0x74#8 S) ++ (oneByteWait ++ programEvents c8 (readoutOp 1))
    let second := programEvents c8 (setupOp .decrypt 0x74#8 (transform S 1 0x74#8 .encrypt).1) ++
      (oneByteWait ++ programEvents c8 (readoutOp 1))
    let s : State := { p1 with events := first ++ (second ++ []) }
    s.cfg.wf ∧ s.state ≠ .busy ∧ S.length ≤ s.cfg.maxChars ∧
    (∀ e ∈ oneByteWait ++ oneByteWait, e = .engine ∨ e = .host (encode s.cfg .rdStatus)) ∧
    S.length + 1 ≤ oneByteWait.count .engine ∧ s.events = first ++ (second ++ []) :=
  ⟨by decide, by decide, by decide, by decide, by decide, rfl⟩

end Sys2Proof.Tests
end

section
/-! PROOFS. The rotations of a byte (00_scope.md R9, R10): `rotl8` and `rotr8` are the rotations of Lean's `BitVec`,
and a rotation is determined by the bit it takes each bit from. -/

namespace Sys2Proof.Machine

/-! The two rotations, by the library's. -/

theorem rotl8_eq_rotateLeft (v : Byte) (n : Nat) : rotl8 v n = v.rotateLeft n := by
  by_cases h : n % 8 = 0
  · simp [rotl8, BitVec.rotateLeft_def, h, BitVec.ushiftRight_eq_zero]
  · rw [BitVec.rotateLeft_def]
    exact if_neg h

theorem rotr8_eq_rotateRight (v : Byte) (n : Nat) : rotr8 v n = v.rotateRight n := by
  by_cases h : n % 8 = 0
  · simp [rotr8, BitVec.rotateRight_def, h]
  · rw [BitVec.rotateRight_def]
    exact if_neg h

/-! The shift formulas: masking with 0xFF cuts only the part that was shifted left. -/

theorem or_and_0xFF_of_lt {a b : Nat} (hb : b < 2 ^ 8) : (a ||| b) &&& 0xFF = a % 2 ^ 8 ||| b := by
  rw [Nat.and_two_pow_sub_one_eq_mod _ 8, Nat.or_mod_two_pow, Nat.mod_eq_of_lt hb]

theorem byte_shiftRight_lt (v : Byte) (k : Nat) : v.toNat >>> k < 2 ^ 8 :=
  (Nat.shiftRight_le _ _).trans_lt v.isLt

theorem toNat_rotl8 (v : Byte) (n : Nat) :
    (rotl8 v n).toNat = ((v.toNat <<< (n % 8)) ||| (v.toNat >>> (8 - n % 8))) &&& 0xFF := by
  rw [rotl8_eq_rotateLeft, BitVec.toNat_rotateLeft, or_and_0xFF_of_lt (byte_shiftRight_lt v _)]

theorem toNat_rotr8 (v : Byte) (n : Nat) :
    (rotr8 v n).toNat = ((v.toNat >>> (n % 8)) ||| (v.toNat <<< (8 - n % 8))) &&& 0xFF := by
  rw [rotr8_eq_rotateRight, BitVec.toNat_rotateRight, Nat.or_comm (_ >>> _) (_ <<< _),
    or_and_0xFF_of_lt (byte_shiftRight_lt v _), Nat.or_comm]

/-! Which bit of the byte each bit of its rotation is. -/

theorem getLsbD_rotl8 (v : Byte) (n : Nat) {i : Nat} (hi : i < 8) :
    (rotl8 v n).getLsbD i = v.getLsbD ((i + 8 - n % 8) % 8) := by
  rw [rotl8_eq_rotateLeft, BitVec.getLsbD_rotateLeft]
  by_cases h : i < n % 8
  · have : (i + 8 - n % 8) % 8 = 8 - n % 8 + i := by omega
    simp [h, this]
  · have : (i + 8 - n % 8) % 8 = i - n % 8 := by omega
    simp [h, hi, this]

theorem getLsbD_rotr8 (v : Byte) (n : Nat) {i : Nat} (hi : i < 8) :
    (rotr8 v n).getLsbD i = v.getLsbD ((i + n) % 8) := by
  rw [rotr8_eq_rotateRight, BitVec.getLsbD_rotateRight]
  by_cases h : i < 8 - n % 8
  · have : (i + n) % 8 = n % 8 + i := by omega
    simp [h, this]
  · have : (i + n) % 8 = i - (8 - n % 8) := by omega
    simp [h, hi, this]

/-! Rotations compose by adding their counts, so a right rotation is a left one and undoes it. -/

@[simp] theorem rotl8_zero (v : Byte) : rotl8 v 0 = v := rfl

theorem rotl8_congr (v : Byte) {m n : Nat} (h : m % 8 = n % 8) : rotl8 v m = rotl8 v n := by
  simp only [rotl8, h]

theorem rotl8_rotl8 (v : Byte) (m n : Nat) : rotl8 (rotl8 v m) n = rotl8 v (m + n) := by
  apply BitVec.eq_of_getLsbD_eq
  intro i hi
  rw [getLsbD_rotl8 _ _ hi, getLsbD_rotl8 _ _ (Nat.mod_lt _ (by decide)), getLsbD_rotl8 _ _ hi]
  congr 1
  omega

theorem rotr8_eq_rotl8 (v : Byte) (n : Nat) : rotr8 v n = rotl8 v ((8 - n % 8) % 8) := by
  apply BitVec.eq_of_getLsbD_eq
  intro i hi
  rw [getLsbD_rotr8 _ _ hi, getLsbD_rotl8 _ _ hi]
  congr 1
  omega

@[simp] theorem rotr8_rotl8 (v : Byte) (n : Nat) : rotr8 (rotl8 v n) n = v := by
  rw [rotr8_eq_rotl8, rotl8_rotl8, rotl8_congr v (n := 0) (by omega), rotl8_zero]

@[simp] theorem rotl8_rotr8 (v : Byte) (n : Nat) : rotl8 (rotr8 v n) n = v := by
  rw [rotr8_eq_rotl8, rotl8_rotl8, rotl8_congr v (n := 0) (by omega), rotl8_zero]

theorem rotl8_eq_iterate (v : Byte) (n : Nat) : rotl8 v n = (fun w => rotl8 w 1)^[n] v := by
  induction n with
  | zero => rfl
  | succ n ih => rw [Function.iterate_succ_apply', ← ih, rotl8_rotl8]

/-! The two statements. -/

/-- Settles O30: the shift formula, the bit each bit comes from, and the iteration by adding counts. -/
theorem rotateLeft : Obligations.RotateLeft := by
  intro v n
  refine ⟨toNat_rotl8 v n, fun i hi => ?_, rotl8_eq_iterate v n⟩
  have source : ((i + n % 8) % 8 + 8 - n % 8) % 8 = i := by omega
  rw [getLsbD_rotl8 _ _ (Nat.mod_lt _ (by decide)), source]

/-- Settles O31: the shift formula, the bit each bit comes from, and the right rotation as a left one. -/
theorem rotateRight : Obligations.RotateRight := by
  intro v n
  refine ⟨toNat_rotr8 v n, fun i hi => ?_, rotr8_rotl8 v n, rotl8_rotr8 v n, rotr8_eq_rotl8 v n⟩
  have source : ((i + 8 - n % 8) % 8 + n) % 8 = i := by omega
  rw [getLsbD_rotr8 _ _ (Nat.mod_lt _ (by decide)), source]

end Sys2Proof.Machine
end

section
/-! PROOFS. What a step can do to the state, said once as a relation (`StepEffect`), and the two things that follow
from it: every step keeps the invariants (10_state.md R28), and each piece of state has the writers the spec lists
for it (10_state.md R17 to R23). -/

namespace Sys2Proof.Machine

/-! Everything a step can do. -/

/-- The state with the next event, if there is one, taken off the order. -/
abbrev State.pop (s : State) : State := { s with events := s.events.tail }

theorem State.pop_of_cons {s : State} {e : Event} {es : List Event} (h : s.events = e :: es) :
    { s with events := es } = s.pop := by
  simp [State.pop, h]

theorem State.pop_of_nil {s : State} (h : s.events = []) : s.pop = s := by
  cases s
  cases h
  rfl

/-- The next states a step can answer from `s`, one constructor per way the state can change, each with its cause. -/
inductive StepEffect (s : State) : State → Prop
  /-- Nothing but the order of events changes: an ignored write, or no ENGINE STEP enabled. -/
  | unchanged : StepEffect s s.pop
  /-- A HOST read adds its reply. -/
  | read (i : Instr) (r : Reply) (host : s.hostIssues i) (isRead : i.isWrite = false) : StepEffect s (s.pop.answer r)
  /-- WR_KEY outside BUSY. -/
  | wrKey (v : Byte) (free : s.state ≠ .busy) (host : s.hostIssues (.wrKey v)) : StepEffect s { s.pop with key := v }
  /-- WR_LEN outside BUSY. -/
  | wrLen (v : Nat) (free : s.state ≠ .busy) (host : s.hostIssues (.wrLen v)) (fits : s.cfg.fits v) :
      StepEffect s { s.pop with len := v }
  /-- WR_IBUF outside BUSY, at a mapped index. -/
  | wrIbuf (a : Nat) (v : Byte) (free : s.state ≠ .busy) (host : s.hostIssues (.wrIbuf a v))
      (mapped : a < s.cfg.maxChars) : StepEffect s { s.pop with ibuf := s.ibuf.write a v }
  /-- An accepted ENC or DEC. -/
  | accept (d : Direction) (accepts : s.acceptsNext d) : StepEffect s (s.pop.accept d)
  /-- An ENC or DEC rejected with InvalidLength. -/
  | reject (rejects : s.rejectsNext) : StepEffect s s.pop.raiseInvalidLength
  /-- CLR outside BUSY. -/
  | clear (clears : s.clearsNext) : StepEffect s s.pop.toIdle
  /-- The byte step. -/
  | byteStep (engine : s.engineNext) (more : s.idx < s.len) (mapped : s.idx < s.cfg.maxChars) :
      StepEffect s s.pop.processByte
  /-- The completion step. -/
  | complete (engine : s.engineNext) (finished : s.idx = s.len) : StepEffect s s.pop.complete
  /-- RESET. -/
  | reset (resets : s.resetNext) : StepEffect s s.pop.takeReset

/-- What an instruction does once its request is taken off the order. -/
theorem exec_effect {s t : State} {i : Instr} (host : s.hostIssues i) (h : exec i s.pop = .next t) :
    StepEffect s t := by
  rcases exec_cases h with ⟨isRead, r, rfl⟩ | ⟨-, rfl⟩ | ⟨free, ⟨v, rfl, rfl⟩ | ⟨v, rfl, fits, rfl⟩ |
    ⟨a, v, rfl, mapped, rfl⟩ | ⟨d, starts, le, rfl⟩ | ⟨d, starts, lt, rfl⟩ | ⟨rfl | rfl, rfl⟩⟩
  · exact .read i r host isRead
  · exact .unchanged
  · exact .wrKey v free host
  · exact .wrLen v free host fits
  · exact .wrIbuf a v free host mapped
  · exact .accept d ⟨free, le, i, host, starts⟩
  · exact .reject ⟨free, lt, i, d, host, starts⟩
  · exact .clear ⟨free, .inl host⟩
  · exact .clear ⟨free, .inr host⟩

/-- What an ENGINE turn does once it is taken off the order. -/
theorem engineStep_effect {s t : State} (turn : s.events = [] ∨ ∃ es, s.events = .engine :: es)
    (h : engineStep s.pop = .next t) : StepEffect s t := by
  rcases engineStep_cases h with ⟨-, rfl⟩ | ⟨busy, more, mapped, rfl⟩ | ⟨busy, finished, rfl⟩
  · exact .unchanged
  · exact .byteStep ⟨busy, turn⟩ more mapped
  · exact .complete ⟨busy, turn⟩ finished

theorem step_effect {s t : State} (h : step s = .next t) : StepEffect s t := by
  rcases step_cases h with ⟨r, es, i, he, hd, hx⟩ | ⟨es, he, hx⟩ | ⟨he, -, hx⟩ | ⟨es, he, rfl⟩ | ⟨he, -, rfl⟩
  · exact exec_effect ⟨r, es, he, hd⟩ (State.pop_of_cons he ▸ hx)
  · exact engineStep_effect (.inr ⟨es, he⟩) (State.pop_of_cons he ▸ hx)
  · exact engineStep_effect (.inl he) ((State.pop_of_nil he).symm ▸ hx)
  · exact State.pop_of_cons he ▸ .reset ⟨es, he⟩
  · simpa only [State.pop_of_nil he] using StepEffect.unchanged (s := t)

/-! The invariants, operation by operation. Only the fields of `Inv` that an operation can break are given. -/

section Invariant

variable {s : State}

theorem State.Inv.pop (h : s.Inv) : s.pop.Inv := { h with }

theorem State.Inv.answer (h : s.Inv) (r : Reply) : (s.answer r).Inv := { h with }

theorem State.Inv.withKey (h : s.Inv) (free : s.state ≠ .busy) (v : Byte) : ({ s with key := v } : State).Inv :=
  { h with busy_key := fun busy => absurd busy free }

theorem State.Inv.withLen (h : s.Inv) (free : s.state ≠ .busy) {v : Nat} (fits : s.cfg.fits v) :
    ({ s with len := v } : State).Inv :=
  { h with len_fits := fits, busy_bounds := fun busy => absurd busy free }

theorem State.Inv.writeIbuf (h : s.Inv) {a : Nat} (v : Byte) (mapped : a < s.cfg.maxChars) :
    ({ s with ibuf := s.ibuf.write a v } : State).Inv :=
  { h with
    ibuf_wf := Memory.write_wf s.ibuf a v h.ibuf_wf
    ibuf_mapped := Memory.write_mapped s.ibuf v mapped h.ibuf_mapped }

/-- A run starts with KS = KEY, that is KEY scrambled IDX = 0 times. -/
theorem State.Inv.accept (h : s.Inv) (d : Direction) (le : s.len ≤ s.cfg.maxChars) : (s.accept d).Inv :=
  { h with
    idx_le := Nat.zero_le _
    busy_bounds := fun _ => ⟨le, Nat.zero_le _⟩
    busy_key := fun _ => rfl }

/-- STATE may take any value but BUSY: what `Inv` says of a run in progress then holds trivially. -/
theorem State.Inv.withState (h : s.Inv) {e : EngineState} (free : e ≠ .busy) : ({ s with state := e } : State).Inv :=
  { h with
    busy_bounds := fun busy => absurd busy free
    busy_key := fun busy => absurd busy free }

/-- A byte step scrambles KS once and advances IDX by one, to at most LEN. -/
theorem State.Inv.processByte (h : s.Inv) (busy : s.state = .busy) (more : s.idx < s.len)
    (mapped : s.idx < s.cfg.maxChars) : s.processByte.Inv :=
  { h with
    idx_le := mapped
    obuf_wf := Memory.write_wf s.obuf s.idx _ h.obuf_wf
    obuf_mapped := Memory.write_mapped s.obuf _ mapped h.obuf_mapped
    busy_bounds := fun _ => ⟨(h.busy_bounds busy).1, more⟩
    busy_key := fun _ => congrArg scramble (h.busy_key busy) }

end Invariant

theorem State.afterReset_inv {c : Config} (hc : c.wf) (n : Nat) (rs : List Reply) (es : List Event) :
    (State.afterReset c n rs es).Inv where
  cfg_wf := hc
  len_fits := Nat.two_pow_pos _
  idx_le := Nat.zero_le _
  ibuf_wf := .nil
  ibuf_mapped := by simp
  obuf_wf := .nil
  obuf_mapped := by simp
  busy_bounds := by simp
  busy_key := by simp

theorem StepEffect.keeps_inv {s t : State} (h : StepEffect s t) (inv : s.Inv) : t.Inv := by
  cases h with
  | unchanged => exact inv.pop
  | read i r => exact inv.pop.answer r
  | wrKey v free => exact inv.pop.withKey free v
  | wrLen v free _ fits => exact inv.pop.withLen free fits
  | wrIbuf a v _ _ mapped => exact inv.pop.writeIbuf v mapped
  | accept d accepts =>
    obtain ⟨-, le, -⟩ := accepts
    exact inv.pop.accept d le
  | reject => exact inv.pop.withState (by decide)
  | clear => exact inv.pop.withState (by decide)
  | byteStep engine more mapped =>
    obtain ⟨busy, -⟩ := engine
    exact inv.pop.processByte busy more mapped
  | complete => exact inv.pop.withState (by decide)
  | reset => exact State.afterReset_inv inv.cfg_wf _ _ _

/-- Settles O42: each effect a step can have keeps the invariants. -/
theorem stepKeepsInvariant : Obligations.StepKeepsInvariant :=
  fun _ _ inv h => (step_effect h).keeps_inv inv

/-- Settles O41: the reset state meets the invariants, and the test configuration meets its constraints. -/
theorem resetMeetsInvariant : Obligations.ResetMeetsInvariant :=
  ⟨fun _ n rs es hc => State.afterReset_inv hc n rs es, State.afterReset_inv (by decide) 0 [] []⟩

/-! The writers of each piece of state: the cases named are the effects that can change it; every other effect leaves
it as it is, by `rfl`. -/

namespace StepEffect

variable {s t : State}

theorem cfg_eq (h : StepEffect s t) : t.cfg = s.cfg := by
  cases h <;> rfl

theorem state_writers (h : StepEffect s t) (changed : t.state ≠ s.state) :
    ((∃ d, s.acceptsNext d) ∧ t.state = .busy) ∨ (s.rejectsNext ∧ t.state = .error) ∨
    (s.engineNext ∧ s.idx = s.len ∧ t.state = .done) ∨ (s.clearsNext ∧ t.state = .idle) ∨
    (s.resetNext ∧ t.state = .idle) := by
  cases h with
  | accept d accepts => exact .inl ⟨⟨d, accepts⟩, rfl⟩
  | reject rejects => exact .inr (.inl ⟨rejects, rfl⟩)
  | complete engine finished => exact .inr (.inr (.inl ⟨engine, finished, rfl⟩))
  | clear clears => exact .inr (.inr (.inr (.inl ⟨clears, rfl⟩)))
  | reset resets => exact .inr (.inr (.inr (.inr ⟨resets, rfl⟩)))
  | _ => exact (changed rfl).elim

theorem dir_writers (h : StepEffect s t) (changed : t.dir ≠ s.dir) :
    s.acceptsNext t.dir ∨ (s.resetNext ∧ t.dir = .encrypt) := by
  cases h with
  | accept d accepts => exact .inl accepts
  | reset resets => exact .inr ⟨resets, rfl⟩
  | _ => exact (changed rfl).elim

theorem ks_writers (h : StepEffect s t) (changed : t.ks ≠ s.ks) :
    ((∃ d, s.acceptsNext d) ∧ t.ks = s.key) ∨ (s.engineNext ∧ s.idx < s.len ∧ t.ks = scramble s.ks) ∨
    (s.resetNext ∧ t.ks = 0x00#8) := by
  cases h with
  | accept d accepts => exact .inl ⟨⟨d, accepts⟩, rfl⟩
  | byteStep engine more => exact .inr (.inl ⟨engine, more, rfl⟩)
  | reset resets => exact .inr (.inr ⟨resets, rfl⟩)
  | _ => exact (changed rfl).elim

theorem idx_writers (h : StepEffect s t) (changed : t.idx ≠ s.idx) :
    ((∃ d, s.acceptsNext d) ∧ t.idx = 0) ∨ (s.engineNext ∧ s.idx < s.len ∧ t.idx = s.idx + 1) ∨
    (s.resetNext ∧ t.idx = 0) := by
  cases h with
  | accept d accepts => exact .inl ⟨⟨d, accepts⟩, rfl⟩
  | byteStep engine more => exact .inr (.inl ⟨engine, more, rfl⟩)
  | reset resets => exact .inr (.inr ⟨resets, rfl⟩)
  | _ => exact (changed rfl).elim

theorem key_writers (h : StepEffect s t) (changed : t.key ≠ s.key) :
    (s.state ≠ .busy ∧ s.hostIssues (.wrKey t.key)) ∨ (s.resetNext ∧ t.key = 0x00#8) := by
  cases h with
  | wrKey v free host => exact .inl ⟨free, host⟩
  | reset resets => exact .inr ⟨resets, rfl⟩
  | _ => exact (changed rfl).elim

theorem len_writers (h : StepEffect s t) (changed : t.len ≠ s.len) :
    (s.state ≠ .busy ∧ s.hostIssues (.wrLen t.len)) ∨ (s.resetNext ∧ t.len = 0) := by
  cases h with
  | wrLen v free host => exact .inl ⟨free, host⟩
  | reset resets => exact .inr ⟨resets, rfl⟩
  | _ => exact (changed rfl).elim

theorem ibuf_writers (h : StepEffect s t) {a : Nat} (changed : t.bufferByte .ibuf a ≠ s.bufferByte .ibuf a) :
    (s.state ≠ .busy ∧ a < s.cfg.maxChars ∧ s.hostIssues (.wrIbuf a (t.bufferByte .ibuf a))) ∨ s.resetNext := by
  cases h with
  | wrIbuf b v free host mapped =>
    have written : ({ s.pop with ibuf := s.ibuf.write b v } : State) = s.pop.writeIbuf b v := (if_pos mapped).symm
    rw [written] at changed ⊢
    obtain rfl : a = b := by
      by_contra other
      exact changed (s.pop.writeIbuf_other v other)
    rw [s.pop.writeIbuf_same v mapped]
    exact .inl ⟨free, mapped, host⟩
  | reset resets => exact .inr resets
  | _ => exact (changed rfl).elim

theorem obuf_writers (h : StepEffect s t) {a : Nat} (changed : t.bufferByte .obuf a ≠ s.bufferByte .obuf a) :
    (s.engineNext ∧ s.idx < s.len ∧ a = s.idx) ∨ s.resetNext := by
  cases h with
  | byteStep engine more =>
    refine .inl ⟨engine, more, ?_⟩
    by_contra other
    exact changed (s.pop.processByte_obuf_other other)
  | reset resets => exact .inr resets
  | _ => exact (changed rfl).elim

end StepEffect

/-- Settles O45: the writers of each piece of state, over the effects a step can have. -/
theorem writersOfState : Obligations.WritersOfState := by
  intro s t h
  have effect := step_effect h
  exact ⟨effect.cfg_eq, effect.state_writers, effect.dir_writers, effect.ks_writers, effect.idx_writers,
    effect.key_writers, effect.len_writers, fun _ => effect.ibuf_writers, fun _ => effect.obuf_writers⟩

end Sys2Proof.Machine
end

section
/-! PROOFS. What a transaction's bits decode to: an operand that was read fits its field, so what decodes is well
formed; and the operand bits the encoder writes are read back (30_encoding.md R46 to R48; 20_memory.md R34). -/

namespace Sys2Proof

/-! The operand readers: what they answer fits the field, and they read what `toBits` wrote. -/

theorem exactField_lt {w v : Nat} {bits : List Bool} (h : exactField w bits = .ok v) : v < 2 ^ w := by
  obtain ⟨rfl, rfl⟩ := exactField_ok_iff.1 h
  exact ofBits_lt bits

theorem exactField_toBits {w n : Nat} (h : n < 2 ^ w) : exactField w (toBits w n) = .ok n := by
  rw [exactField_of_length (toBits_length w n), ofBits_toBits_of_lt h]

/-- An instruction decoded through a field of exact width is made from a value that fits the field. -/
theorem exactField_map_ok {w : Nat} {bits : List Bool} {f : Nat → Instr} {i : Instr}
    (h : (exactField w bits).map f = .ok i) : ∃ v, v < 2 ^ w ∧ f v = i := by
  cases hv : exactField w bits with
  | error e => rw [hv] at h; cases h
  | ok v =>
    rw [hv] at h
    exact ⟨v, exactField_lt hv, Except.ok.inj h⟩

section Readers

variable {c : Config} {bits : List Bool} {j : Instr}

theorem noOperand_wellFormed {i : Instr} (hi : i.wellFormed c = true) (h : noOperand i bits = .ok j) :
    j.wellFormed c = true := by
  obtain ⟨v, -, rfl⟩ := exactField_map_ok h
  exact hi

theorem byteOperand_wellFormed {f : Byte → Instr} (hf : ∀ v, (f v).wellFormed c = true)
    (h : byteOperand f bits = .ok j) : j.wellFormed c = true := by
  obtain ⟨v, -, rfl⟩ := exactField_map_ok h
  exact hf _

theorem commandOperand_wellFormed {f : CommandWord → Instr} (hf : ∀ v, (f v).wellFormed c = true)
    (h : commandOperand f bits = .ok j) : j.wellFormed c = true := by
  obtain ⟨v, -, rfl⟩ := exactField_map_ok h
  exact hf _

theorem countOperand_wellFormed {f : Nat → Instr} (hf : ∀ v, (f v).wellFormed c = decide (c.fits v))
    (h : countOperand c f bits = .ok j) : j.wellFormed c = true := by
  obtain ⟨v, hv, rfl⟩ := exactField_map_ok h
  rw [hf]
  exact decide_eq_true hv

theorem indexedByteOperand_wellFormed {f : Nat → Byte → Instr} (hf : ∀ a v, (f a v).wellFormed c = decide (c.fits a))
    (h : indexedByteOperand c f bits = .ok j) : j.wellFormed c = true := by
  obtain ⟨v, hv, rfl⟩ := exactField_map_ok h
  rw [hf]
  exact decide_eq_true (Nat.div_lt_of_lt_mul (by rwa [← Nat.pow_add, Nat.add_comm]))

end Readers

theorem byteOperand_toBits (f : Byte → Instr) (v : Byte) : byteOperand f (toBits 8 v.toNat) = .ok (f v) := by
  simp [byteOperand, exactField_toBits v.isLt, Except.map]

theorem commandOperand_toBits (f : CommandWord → Instr) (v : CommandWord) :
    commandOperand f (toBits 2 v.toNat) = .ok (f v) := by
  simp [commandOperand, exactField_toBits v.isLt, Except.map]

theorem countOperand_toBits {c : Config} (f : Nat → Instr) {v : Nat} (h : c.fits v) :
    countOperand c f (toBits c.lenW v) = .ok (f v) := by
  simp [countOperand, exactField_toBits h, Except.map]

/-- The index is the high part of the operand's value, the data byte its low eight bits. -/
theorem indexedByteOperand_toBits {c : Config} (f : Nat → Byte → Instr) {a : Nat} (v : Byte) (h : c.fits a) :
    indexedByteOperand c f (toBits c.lenW a ++ toBits 8 v.toNat) = .ok (f a v) := by
  have value : ofBits (toBits c.lenW a ++ toBits 8 v.toNat) = a * 2 ^ 8 + v.toNat := by
    rw [ofBits_append, toBits_length, ofBits_toBits_of_lt h, ofBits_toBits_of_lt v.isLt]
  have index : (a * 2 ^ 8 + v.toNat) / 2 ^ 8 = a := by omega
  have data : BitVec.ofNat 8 (a * 2 ^ 8 + v.toNat) = v := by
    apply BitVec.eq_of_toNat_eq
    rw [BitVec.toNat_ofNat]
    omega
  rw [indexedByteOperand, exactField_of_length (by simp), value, Except.map, index, data]

/-! The two directions, header by header; `h_n` is the `n`-th arm of the decoder's match, and the last arm is its
`.error`. -/

theorem decodeReg_wellFormed {c : Config} {bits : List Bool} {i : Instr} (h : decodeReg c bits = .ok i) :
    i.wellFormed c = true := by
  unfold decodeReg at h
  split at h
  case h_9 => exact commandOperand_wellFormed (fun _ => rfl) h
  case h_10 | h_11 | h_13 | h_15 | h_16 => exact byteOperand_wellFormed (fun _ => rfl) h
  case h_12 | h_14 => exact countOperand_wellFormed (fun _ => rfl) h
  case h_17 => cases h
  all_goals exact noOperand_wellFormed rfl h

theorem decodeTransaction_wellFormed {c : Config} {bits : List Bool} {i : Instr}
    (h : decodeTransaction c bits = .ok i) : i.wellFormed c = true := by
  unfold decodeTransaction at h
  split at h
  case h_1 => exact decodeReg_wellFormed h
  case h_2 | h_3 | h_4 => exact countOperand_wellFormed (fun _ => rfl) h
  case h_5 | h_6 | h_7 => exact indexedByteOperand_wellFormed (fun _ _ => rfl) h
  case h_8 => cases h

theorem decodeCommand_wellFormed (c : Config) (op : CommandWord) : (decodeCommand op).wellFormed c = true := by
  unfold decodeCommand
  split_ifs <;> rfl

/-- What decodes is well formed: a bit string of the right length holds no value wider than its field. -/
theorem decode_wellFormed {c : Config} {r : Request} {i : Instr} (h : decode c r = .ok i) :
    i.wellFormed c = true := by
  cases r with
  | transaction bits => exact decodeTransaction_wellFormed h
  | command op =>
    obtain rfl := Except.ok.inj h
    exact decodeCommand_wellFormed c op

theorem decode_encode {c : Config} {i : Instr} (h : i.wellFormed c = true) : decode c (encode c i) = .ok i := by
  cases i with
  | rdCtrl | rdStatus | rdKey | rdLen | rdKs | rdIdx | rdReg6 | rdReg7 | nop | enc | dec | clr => rfl
  | wrCtrl op => exact commandOperand_toBits _ op
  | wrStatus v | wrKey v | wrKs v | wrReg6 v | wrReg7 v => exact byteOperand_toBits _ v
  | wrLen v | wrIdx v | rdIbuf v | rdObuf v | rdUnmapped v => exact countOperand_toBits _ (of_decide_eq_true h)
  | wrIbuf a v | wrObuf a v | wrUnmapped a v => exact indexedByteOperand_toBits _ v (of_decide_eq_true h)

end Sys2Proof
end

section
/-! PROOFS. The host's view of the memory (20_memory.md R33 to R41): which step each event is, when an instruction
answers, what a read answers, what BUSY and DONE keep; and that a run of expressible events never stops. -/

namespace Sys2Proof.Machine

/-! The step, event by event. -/

section Step

variable {s : State} {es : List Event}

theorem step_host {r : Request} {i : Instr} (he : s.events = .host r :: es) (hd : decode s.cfg r = .ok i) :
    step s = exec i { s with events := es } := by
  simp [step, State.nextEvent, he, hd]

theorem step_malformed {r : Request} {e : DecodeError} (he : s.events = .host r :: es)
    (hd : decode s.cfg r = .error e) : step s = .refused (.malformedTransaction e) := by
  simp [step, State.nextEvent, he, hd]

theorem step_engine (he : s.events = .engine :: es) : step s = engineStep { s with events := es } := by
  simp [step, State.nextEvent, he]

theorem step_reset (he : s.events = .reset :: es) : step s = .next (State.takeReset { s with events := es }) := by
  simp [step, State.nextEvent, he]

theorem step_nil_of_busy (he : s.events = []) (busy : s.state = .busy) : step s = engineStep s := by
  simp [step, State.nextEvent, he, busy]

theorem step_nil_of_not_busy (he : s.events = []) (free : s.state ≠ .busy) : step s = .next s := by
  simp [step, State.nextEvent, he, free]

end Step

/-- Settles O5: the rule of the step for a HOST request that decodes. -/
theorem stepRunsDecodedRequest : Obligations.StepRunsDecodedRequest :=
  fun _ _ _ _ => step_host

/-- Settles O7: the rules of the step for the other events and for an empty order. -/
theorem stepWithoutHost : Obligations.StepWithoutHost :=
  ⟨fun _ _ => step_engine, fun _ _ => step_reset, fun _ => step_nil_of_busy, fun _ => step_nil_of_not_busy⟩

/-! When an instruction answers: exactly when its operands fit. -/

theorem State.withField_of_not_fits {s : State} {v : Nat} (access : State) (h : ¬ s.cfg.fits v) :
    s.withField v access = .refused .operandNotExpressible :=
  if_neg h

theorem exec_of_wellFormed {s : State} {i : Instr} (h : i.wellFormed s.cfg = true) : ∃ t, exec i s = .next t := by
  cases i with
  | wrLen v | wrIdx v | rdIbuf v | rdObuf v | rdUnmapped v | wrIbuf v _ | wrObuf v _ | wrUnmapped v _ =>
    exact ⟨_, State.withField_of_fits _ (of_decide_eq_true h)⟩
  | _ => exact ⟨_, rfl⟩

theorem exec_of_not_wellFormed {s : State} {i : Instr} (h : i.wellFormed s.cfg = false) :
    exec i s = .refused .operandNotExpressible := by
  cases i with
  | wrLen v | wrIdx v | rdIbuf v | rdObuf v | rdUnmapped v | wrIbuf v _ | wrObuf v _ | wrUnmapped v _ =>
    exact State.withField_of_not_fits _ (of_decide_eq_false h)
  | _ => cases h

theorem wellFormed_of_exec_next {s t : State} {i : Instr} (h : exec i s = .next t) : i.wellFormed s.cfg = true := by
  by_contra bad
  rw [exec_of_not_wellFormed (Bool.eq_false_iff.2 bad)] at h
  cases h

/-- Settles O19: the eight instructions given an operand of `2^LEN_W` or more are not well formed. -/
theorem tooWideOperandRefused : Obligations.TooWideOperandRefused := by
  intro s n v wide
  have bad : decide (s.cfg.fits n) = false := decide_eq_false (Nat.not_lt.2 wide)
  exact ⟨exec_of_not_wellFormed bad, exec_of_not_wellFormed bad, exec_of_not_wellFormed bad,
    exec_of_not_wellFormed bad, exec_of_not_wellFormed bad, exec_of_not_wellFormed bad,
    exec_of_not_wellFormed bad, exec_of_not_wellFormed bad⟩

/-! What a read answers. -/

/-- The reply of a read in state `s`: zero for the reads that are RAZ (20_memory.md R33). Of a write, which has no
reply, it says nothing. -/
def State.readReply (s : State) : Instr → Reply
  | .rdCtrl => .ctrl 0b00#2
  | .rdStatus => .byte s.status
  | .rdKey => .byte s.key
  | .rdLen => .count s.len
  | .rdKs => .byte s.ks
  | .rdIdx => .count s.idx
  | .rdIbuf a => .byte (s.readBuffer .ibuf a)
  | .rdObuf a => .byte (s.readBuffer .obuf a)
  | _ => .byte 0x00#8

theorem exec_read {s : State} {i : Instr} (read : i.isWrite = false) (wf : i.wellFormed s.cfg = true) :
    exec i s = .next (s.answer (s.readReply i)) := by
  cases i with
  | rdCtrl | rdStatus | rdKey | rdLen | rdKs | rdIdx | rdReg6 | rdReg7 => rfl
  | rdIbuf a | rdObuf a | rdUnmapped a => exact State.withField_of_fits _ (of_decide_eq_true wf)
  | _ => cases read

/-- The replies are the HOST's, and no read looks at them. -/
@[simp] theorem State.readReply_answer (s : State) (r : Reply) (i : Instr) :
    (s.answer r).readReply i = s.readReply i := by
  cases i <;> rfl

/-- STATE shows in RD_STATUS alone. -/
theorem State.readReply_withState (s : State) (e : EngineState) {i : Instr} (h : i ≠ .rdStatus) :
    ({ s with state := e } : State).readReply i = s.readReply i := by
  cases i with
  | rdStatus => exact absurd rfl h
  | _ => rfl

/-- Settles O14: a read answers from fields it does not change. The second part holds of every byte here, since the
free value of an unwritten one is fixed until the next RESET (log entry 4). -/
theorem readsHaveNoSideEffect : Obligations.ReadsHaveNoSideEffect := by
  intro s t i read h
  have wf := wellFormed_of_exec_next h
  obtain rfl : s.answer (s.readReply i) = t := Host.Outcome.next.inj ((exec_read read wf).symm.trans h)
  have again : exec i (s.answer (s.readReply i)) = .next ((s.answer (s.readReply i)).answer (s.readReply i)) := by
    rw [exec_read (s := s.answer _) read wf, State.readReply_answer]
  exact ⟨s.readReply i, rfl, fun _ _ => again⟩

/-! The RAZ/WI transactions. -/

theorem State.readBuffer_of_unmapped {s : State} (b : Buffer) {i : Nat} (h : s.cfg.maxChars ≤ i) :
    s.readBuffer b i = 0x00#8 :=
  if_neg (Nat.not_lt.2 h)

theorem State.writeIbuf_of_unmapped {s : State} {i : Nat} (v : Byte) (h : s.cfg.maxChars ≤ i) :
    s.writeIbuf i v = s :=
  if_neg (Nat.not_lt.2 h)

theorem State.gated_of_eq {s : State} {write : State → State} (h : write s = s) : s.gated write = s := by
  unfold State.gated
  split
  · rfl
  · exact h

/-- Settles O13: the ignored transactions by their meaning, the buffer accesses because the index is not mapped. -/
theorem readAsZeroWriteIgnored : Obligations.ReadAsZeroWriteIgnored := by
  intro s v n fits
  have field (access : State) : s.withField n access = .next access := State.withField_of_fits access fits
  refine ⟨rfl, rfl, rfl, field _, rfl, rfl, field _, rfl, rfl, field _, field _, fun unmapped => ⟨?_, ?_, ?_⟩⟩
  · have zero := State.readBuffer_of_unmapped .ibuf unmapped
    exact zero ▸ field (s.answer (.byte (s.readBuffer .ibuf n)))
  · have zero := State.readBuffer_of_unmapped .obuf unmapped
    exact zero ▸ field (s.answer (.byte (s.readBuffer .obuf n)))
  · have ignored : s.gated (·.writeIbuf n v) = s := State.gated_of_eq (State.writeIbuf_of_unmapped v unmapped)
    exact (field _).trans (congrArg Host.Outcome.next ignored)

/-! What BUSY and DONE keep. -/

theorem exec_write_of_busy {s : State} {i : Instr} (busy : s.state = .busy) (wf : i.wellFormed s.cfg = true)
    (write : i.isWrite = true) : exec i s = .next s := by
  obtain ⟨t, h⟩ := exec_of_wellFormed wf
  rcases exec_cases h with ⟨read, -⟩ | ⟨-, rfl⟩ | ⟨free, -⟩
  · rw [write] at read
    cases read
  · exact h
  · exact absurd busy free

/-- Settles O18: the gate is where every change by a write is guarded; a read's reply does not depend on STATE; of the
writers of STATE only the completion step and RESET act in BUSY. -/
theorem busyGate : Obligations.BusyGate := by
  refine ⟨fun s i => exec_write_of_busy, fun s i wf read other => ⟨s.readReply i, fun e => ?_⟩,
    fun s t busy h left => ?_⟩
  · rw [← s.readReply_withState e other]
    exact exec_read read wf
  · have changed : t.state ≠ s.state := by rwa [busy]
    rcases (step_effect h).state_writers changed with ⟨⟨d, free, -⟩, -⟩ | ⟨⟨free, -⟩, -⟩ | completes | ⟨⟨free, -⟩, -⟩ |
      resets
    · exact absurd busy free
    · exact absurd busy free
    · exact .inl completes
    · exact absurd busy free
    · exact .inr resets

/-- Settles O46: the effects that can change the result are an accepted command, a byte step (not in DONE) and
RESET. -/
theorem resultStaysUntilNextRun : Obligations.ResultStaysUntilNextRun := by
  intro s t done h noAccept noReset
  cases step_effect h with
  | accept d accepts => exact absurd accepts (noAccept d)
  | byteStep engine =>
    obtain ⟨busy, -⟩ := engine
    rw [done] at busy
    cases busy
  | reset resets => exact absurd resets noReset
  | _ => exact ⟨rfl, rfl, fun _ => rfl⟩

/-! Runs. -/

/-- Whatever happens in a step, one event is taken off the order and none is added. -/
theorem StepEffect.events_eq {s t : State} (h : StepEffect s t) : t.events = s.events.tail := by
  cases h <;> rfl

theorem State.Inv.engineStep_next {s : State} (inv : s.Inv) : ∃ t, engineStep s = .next t := by
  by_cases busy : s.state = .busy
  · obtain ⟨len_le, idx_le⟩ := inv.busy_bounds busy
    rcases Nat.lt_or_eq_of_le idx_le with more | finished
    · have mapped : s.idx < s.cfg.maxChars := by omega
      exact ⟨s.processByte, by simp [engineStep, busy, more, byteStep, mapped]⟩
    · exact ⟨s.complete, by simp [engineStep, busy, finished]⟩
  · exact ⟨s, by simp [engineStep, busy]⟩

theorem Event.decode_of_expressible {c : Config} {r : Request} (h : (Event.host r).expressible c = true) :
    ∃ i, decode c r = .ok i := by
  unfold Event.expressible at h
  cases hd : decode c r with
  | ok i => exact ⟨i, rfl⟩
  | error e => simp [hd] at h

theorem State.Inv.step_next {s : State} (inv : s.Inv) (expressible : ∀ e ∈ s.events, e.expressible s.cfg = true) :
    ∃ t, step s = .next t := by
  rcases he : s.events with _ | ⟨e, es⟩
  · by_cases busy : s.state = .busy
    · rw [step_nil_of_busy he busy]
      exact inv.engineStep_next
    · exact ⟨s, step_nil_of_not_busy he busy⟩
  · cases e with
    | host r =>
      obtain ⟨i, hd⟩ := Event.decode_of_expressible (expressible (.host r) (by simp [he]))
      rw [step_host he hd]
      exact exec_of_wellFormed (decode_wellFormed hd)
    | engine =>
      rw [step_engine he, State.pop_of_cons he]
      exact inv.pop.engineStep_next
    | reset => exact ⟨_, step_reset he⟩

/-- Settles O44, by induction on the number of steps: the invariants hold and the events left are expressible after
each step, and from such a state a step never stops. -/
theorem expressibleRunsAreSafe : Obligations.ExpressibleRunsAreSafe := by
  intro s inv expressible k
  induction k generalizing s with
  | zero => exact ⟨s, runSteps_zero s⟩
  | succ k ih =>
    obtain ⟨t, h⟩ := inv.step_next expressible
    have effect := step_effect h
    rw [runSteps_succ h]
    refine ih t (effect.keeps_inv inv) fun e he => ?_
    rw [effect.events_eq] at he
    rw [effect.cfg_eq]
    exact expressible e (List.mem_of_mem_tail he)

/-! HOST programs with a line that cannot be expressed. -/

theorem runSteps_of_refused {s : State} {q : Refusal} (h : step s = .refused q) (k : Nat) :
    runSteps (k + 1) s = .refused q := by
  have h' : Sys2Proof.core.step s = .refused q := h
  simp only [runSteps, Host.Core.run, h']
  rfl

/-- A HOST program one of whose lines is not well formed is refused at its first such line; every line before it
answers a next state. -/
theorem runSteps_program_refused {p : List Instr} {s : State} {rest : List Event} {m : Nat}
    (bad : ∃ i ∈ p, i.wellFormed s.cfg = false) (he : s.events = programEvents s.cfg p ++ rest) (hm : p.length ≤ m) :
    runSteps m s = .refused (.malformedTransaction .truncated) := by
  induction p generalizing s m with
  | nil => simp at bad
  | cons i p ih =>
    obtain ⟨m, rfl⟩ : ∃ m', m = m' + 1 := Nat.exists_eq_add_one.2 (Nat.lt_of_lt_of_le (by simp) hm)
    rw [programEvents_cons, List.cons_append] at he
    cases wf : i.wellFormed s.cfg with
    | false => exact runSteps_of_refused (step_malformed he (decode_hostRequest_of_not_wellFormed wf)) m
    | true =>
      have hd : decode s.cfg (hostRequest s.cfg i) = .ok i := by rw [hostRequest_of_wellFormed wf, decode_encode wf]
      obtain ⟨t, ht⟩ := exec_of_wellFormed (s := { s with events := programEvents s.cfg p ++ rest }) wf
      have h : step s = .next t := (step_host he hd).trans ht
      have cfg_eq := (step_effect h).cfg_eq
      have events_eq := (step_effect h).events_eq
      rw [runSteps_succ h]
      apply ih
      · simpa [wf, cfg_eq] using bad
      · rw [events_eq, cfg_eq, he, List.tail_cons]
      · simpa using hm

theorem loadOp_length (bytes : List Byte) : (loadOp bytes).length = bytes.length + 1 := by
  have writes (i : Nat) : (loadFrom i bytes).length = bytes.length := by
    induction bytes generalizing i with
    | nil => rfl
    | cons b bs ih => simp [loadFrom, ih]
  simp [loadOp, writes]

/-- Settles O51: `WR LEN, n` comes before the command and `n` does not fit, whether or not an earlier `WR IBUF` was
refused already. -/
theorem inexpressibleSequenceRefused : Obligations.InexpressibleSequenceRefused := by
  intro s d k S rest wide he m hm
  have shape : setupOp d k S = (.wrKey k :: loadOp S) ++ cmdOp d.command := rfl
  rw [shape, programEvents_append, List.append_assoc] at he
  refine runSteps_program_refused ⟨.wrLen S.length, ?_, decide_eq_false (Nat.not_lt.2 wide)⟩ he ?_
  · simp [loadOp]
  · simpa [shape, cmdOp] using hm

end Sys2Proof.Machine
end

section
/-! PROOFS. The encoding (30_encoding.md R46 to R52): what decodes is the encoding of what it decodes to, every header
decodes, a command word means what its WR_CTRL does, and STATUS has the values of its table. -/

namespace Sys2Proof

/-! The operand readers inverted: the bits read are the bits the encoder writes of what was read. -/

/-- Every reader is a constructor applied to the value of a field of exact width. -/
theorem exactField_map_inv {w : Nat} {bits : List Bool} {f : Nat → Instr} {i : Instr}
    (h : (exactField w bits).map f = .ok i) : ∃ v, v < 2 ^ w ∧ toBits w v = bits ∧ f v = i := by
  cases hv : exactField w bits with
  | error e => rw [hv] at h; cases h
  | ok v =>
    rw [hv] at h
    obtain ⟨rfl, rfl⟩ := exactField_ok_iff.1 hv
    exact ⟨_, ofBits_lt bits, toBits_ofBits bits, Except.ok.inj h⟩

theorem exactField_map_of_length {w : Nat} {bits : List Bool} {f : Nat → Instr} (h : bits.length = w) :
    ∃ i, (exactField w bits).map f = .ok i :=
  ⟨f (ofBits bits), by rw [exactField_of_length h]; rfl⟩

theorem toBits_mod_two_pow (w v : Nat) : toBits w (v % 2 ^ w) = toBits w v := by
  simpa [ofBits_toBits] using toBits_ofBits (toBits w v)

/-- Two adjacent fields: cutting the bit string where the second begins cuts the number there. -/
theorem toBits_add (m n v : Nat) : toBits (m + n) v = toBits m (v / 2 ^ n) ++ toBits n v := by
  induction m with
  | zero => simp [toBits]
  | succ m ih => simp [Nat.add_right_comm m 1 n, toBits, ih, Nat.testBit_div_two_pow]

section Readers

variable {c : Config} {bits : List Bool} {j : Instr}

theorem noOperand_ok {i : Instr} (h : noOperand i bits = .ok j) : [] = bits ∧ i = j := by
  obtain ⟨v, -, hb, hj⟩ := exactField_map_inv h
  exact ⟨hb, hj⟩

/-- A data operand that is a machine word of the field's width. -/
theorem wordOperand_ok {w : Nat} {f : BitVec w → Instr}
    (h : ((exactField w bits).map fun v => f (BitVec.ofNat w v)) = .ok j) :
    ∃ v : BitVec w, toBits w v.toNat = bits ∧ f v = j := by
  obtain ⟨v, hv, hb, hj⟩ := exactField_map_inv h
  exact ⟨BitVec.ofNat w v, by rwa [BitVec.toNat_ofNat, Nat.mod_eq_of_lt hv], hj⟩

theorem byteOperand_ok {f : Byte → Instr} (h : byteOperand f bits = .ok j) :
    ∃ v : Byte, toBits 8 v.toNat = bits ∧ f v = j :=
  wordOperand_ok h

theorem commandOperand_ok {f : CommandWord → Instr} (h : commandOperand f bits = .ok j) :
    ∃ v : CommandWord, toBits 2 v.toNat = bits ∧ f v = j :=
  wordOperand_ok h

theorem countOperand_ok {f : Nat → Instr} (h : countOperand c f bits = .ok j) :
    ∃ v, toBits c.lenW v = bits ∧ f v = j := by
  obtain ⟨v, -, hb, hj⟩ := exactField_map_inv h
  exact ⟨v, hb, hj⟩

theorem indexedByteOperand_ok {f : Nat → Byte → Instr} (h : indexedByteOperand c f bits = .ok j) :
    ∃ (a : Nat) (v : Byte), toBits c.lenW a ++ toBits 8 v.toNat = bits ∧ f a v = j := by
  obtain ⟨v, -, hb, hj⟩ := exactField_map_inv h
  refine ⟨v / 2 ^ 8, BitVec.ofNat 8 v, ?_, hj⟩
  rw [BitVec.toNat_ofNat, toBits_mod_two_pow, ← toBits_add, hb]

end Readers

/-! What decodes is an encoding, header by header; `h_n` is the `n`-th arm of the decoder's match. -/

theorem encode_of_decodeReg {c : Config} {we : Bool} {bits : List Bool} {i : Instr}
    (h : decodeReg c (we :: bits) = .ok i) : encode c i = .transaction (we :: false :: false :: bits) := by
  unfold decodeReg at h
  split at h
  case h_9 heq =>
    cases heq
    obtain ⟨v, rfl, rfl⟩ := commandOperand_ok h
    rfl
  case h_10 heq | h_11 heq | h_13 heq | h_15 heq | h_16 heq =>
    cases heq
    obtain ⟨v, rfl, rfl⟩ := byteOperand_ok h
    rfl
  case h_12 heq | h_14 heq =>
    cases heq
    obtain ⟨v, rfl, rfl⟩ := countOperand_ok h
    rfl
  case h_17 => cases h
  all_goals
    rename_i heq
    cases heq
    obtain ⟨rfl, rfl⟩ := noOperand_ok h
    rfl

theorem encode_of_decodeTransaction {c : Config} {bits : List Bool} {i : Instr}
    (h : decodeTransaction c bits = .ok i) : encode c i = .transaction bits := by
  unfold decodeTransaction at h
  split at h
  case h_1 => exact encode_of_decodeReg h
  case h_2 | h_3 | h_4 =>
    obtain ⟨v, rfl, rfl⟩ := countOperand_ok h
    rfl
  case h_5 | h_6 | h_7 =>
    obtain ⟨a, v, rfl, rfl⟩ := indexedByteOperand_ok h
    rfl
  case h_8 => cases h

/-- R48: the four command words. -/
theorem commandWord_cases (op : CommandWord) : op = 0b00#2 ∨ op = 0b01#2 ∨ op = 0b10#2 ∨ op = 0b11#2 := by
  revert op
  decide

theorem encode_decodeCommand (c : Config) (op : CommandWord) : encode c (decodeCommand op) = .command op := by
  rcases commandWord_cases op with rfl | rfl | rfl | rfl <;> rfl

theorem encode_of_decode {c : Config} {r : Request} {i : Instr} (h : decode c r = .ok i) : encode c i = r := by
  cases r with
  | transaction bits => exact encode_of_decodeTransaction h
  | command op =>
    obtain rfl := Except.ok.inj h
    exact encode_decodeCommand c op

/-- Settles O2: each operand reader reads back the bits the encoder wrote. -/
theorem decodeEncode : Obligations.DecodeEncode :=
  fun _ _ => decode_encode

/-- Settles O3: each operand reader read exactly the bits the encoder writes. -/
theorem encodeDecode : Obligations.EncodeDecode :=
  fun _ _ _ h => ⟨decode_wellFormed h, encode_of_decode h⟩

/-! Every header decodes: behind each stands the reader of a field, which takes any bits of the right number. -/

theorem regHeader_decodes {c : Config} {h : Nat} {operand : List Bool} (lt : h < 64) (space : h / 8 % 4 = 0)
    (len : operand.length = regDataBits c h) : ∃ i, decode c (.transaction (regHeader h ++ operand)) = .ok i := by
  have readOrWrite : h < 8 ∨ 32 ≤ h ∧ h < 40 := by omega
  rcases readOrWrite with read | ⟨ge, write⟩
  · interval_cases h <;> exact exactField_map_of_length len
  · interval_cases h <;> exact exactField_map_of_length len

theorem bufHeader_decodes {c : Config} {h : Nat} {operand : List Bool} (lt : h < 8) (space : h % 4 ≠ 0)
    (len : operand.length = bufOperandBits c h) : ∃ i, decode c (.transaction (bufHeader h ++ operand)) = .ok i := by
  have readOrWrite : 1 ≤ h ∧ h < 4 ∨ 5 ≤ h ∧ h < 8 := by omega
  rcases readOrWrite with ⟨ge, read⟩ | ⟨ge, write⟩
  · interval_cases h <;> exact exactField_map_of_length len
  · interval_cases h <;> exact exactField_map_of_length len

/-- Settles O4: by the header's number, then by the length of its operand. -/
theorem everyHeaderDecodes : Obligations.EveryHeaderDecodes :=
  fun _ => ⟨fun _ _ => regHeader_decodes, fun _ _ => bufHeader_decodes, fun op => ⟨decodeCommand op, rfl⟩⟩

/-- Settles O1: the decoder, run on the eleven requests. -/
theorem writtenWordsDecode : Obligations.WrittenWordsDecode :=
  ⟨rfl, rfl, rfl, rfl, rfl, rfl, rfl, rfl, rfl, rfl, rfl⟩

namespace Machine

/-- Settles O6: the placed word is a HOST request at the head of the order, and taking it off gives the state back. -/
theorem fetchWordRunsNext : Obligations.FetchWordRunsNext :=
  fun s nbits w _ hd => step_host (s := s.withFetchWord nbits w) rfl hd

/-- Settles O21: behind the same gate, `dispatchCommand` does for each word what that command means. -/
theorem commandActsAsItsWriteCtrl : Obligations.CommandActsAsItsWriteCtrl := by
  intro s op
  rcases commandWord_cases op with rfl | rfl | rfl | rfl <;> rfl

theorem State.status_eq {s : State} {e : EngineState} {d : Direction} (he : s.state = e) (hd : s.dir = d) :
    s.status = 0b00000#5 ++ d.code ++ e.code := by
  rw [State.status, he, hd]

theorem State.status_high_bits (s : State) : s.status.extractLsb' 3 5 = 0b00000#5 := by
  rw [State.status_eq rfl rfl]
  cases s.dir <;> cases s.state <;> rfl

theorem direction_code_of_starts {op : CommandWord} {d : Direction} (h : (Instr.wrCtrl op).starts = some d) :
    d.code = op.extractLsb' 1 1 := by
  rcases commandWord_cases op with rfl | rfl | rfl | rfl
  · cases h
  · cases h; rfl
  · cases h; rfl
  · cases h

/-- Settles O10: the read answers STATUS, STATUS is its three fields side by side, and ENC and DEC have their
direction's code as `op[1]`. -/
theorem statusRead : Obligations.StatusRead :=
  ⟨fun _ => exec_read rfl rfl,
    fun s => ⟨State.status_eq, State.status_eq, State.status_eq, State.status_eq, State.status_eq, State.status_eq,
      State.status_eq, State.status_eq, s.status_high_bits⟩,
    fun _ _ => direction_code_of_starts⟩

end Machine

end Sys2Proof
end

section
/-! PROOFS. The key scrambler (40_key_scrambler.md R53 to R58): SCRAMBLE moves every bit and sets bit 2, so one
application is known bit by bit and `n` applications too, and each rule is read off the bits. -/

namespace Sys2Proof.Machine

/-! One application, bit by bit. -/

theorem getLsbD_twoPow_of_lt {w j : Nat} (hj : j < w) (i : Nat) :
    (BitVec.twoPow w j).getLsbD i = decide (i = j) := by
  rw [BitVec.getLsbD_twoPow, decide_eq_true hj, Bool.true_and, decide_eq_decide]
  exact eq_comm

theorem getLsbD_0x04 (i : Nat) : (0x04#8).getLsbD i = decide (i = 2) :=
  getLsbD_twoPow_of_lt (by decide : 2 < 8) i

/-- Bit `i` comes from three places above it, which is five places below it modulo 8. -/
theorem getLsbD_scramble (key : Byte) {i : Nat} (hi : i < 8) :
    (scramble key).getLsbD i = (key.getLsbD ((i + 3) % 8) || decide (i = 2)) := by
  rw [scramble, BitVec.getLsbD_or, getLsbD_rotl8 _ _ hi, getLsbD_0x04]
  rfl

/-- The same bit in simp's normal form for a literal index. -/
@[simp] theorem getElem_scramble (key : Byte) {i : Nat} (hi : i < 8) :
    (scramble key)[i] = (key.getLsbD ((i + 3) % 8) || decide (i = 2)) := by
  rw [← BitVec.getLsbD_eq_getElem, getLsbD_scramble key hi]

theorem getLsbD_two_scramble (key : Byte) : (scramble key).getLsbD 2 = true := by
  simp

/-- Settles O32: the numbers are the rotation's shift formula, the bits those of `getLsbD_scramble`. -/
theorem scrambleFormula : Obligations.ScrambleFormula := by
  refine ⟨fun key => ⟨rfl, ?_, ?_⟩, rfl, rfl, rfl, rfl⟩
  · rw [scramble, BitVec.toNat_or, toNat_rotl8]
    rfl
  · simp

/-! The count. -/

/-- The rotator's count is the number its three bits spell. -/
theorem rotationCount_eq_bits (key : Byte) :
    rotationCount key = 4 * (key.getLsbD 2).toNat + 2 * (key.getLsbD 1).toNat + (key.getLsbD 0).toNat := by
  have low : rotationCount key = key.toNat % 2 ^ 3 := by simp [rotationCount]
  simp only [low, ← BitVec.testBit_toNat, Nat.toNat_testBit]
  omega

theorem rotationCount_scramble (key : Byte) :
    rotationCount (scramble key) = 4 + 2 * (key.getLsbD 4).toNat + (key.getLsbD 3).toNat := by
  simp [rotationCount_eq_bits]

/-! The collisions: bit 5 goes to bit 2, where it is lost, and no other bit is. -/

theorem scramble_eq_scramble_iff_bits (key key' : Byte) :
    scramble key = scramble key' ↔ ∀ i < 8, i ≠ 5 → key'.getLsbD i = key.getLsbD i := by
  constructor
  · intro same i hi lost
    have target : ((i + 5) % 8 + 3) % 8 = i := by omega
    have moved : (i + 5) % 8 ≠ 2 := by omega
    have bit := congrArg (fun k => k.getLsbD ((i + 5) % 8)) same
    simpa [getLsbD_scramble _ (Nat.mod_lt _ (by decide : 0 < 8)), target, moved] using bit.symm
  · intro agree
    apply BitVec.eq_of_getLsbD_eq
    intro i hi
    rw [getLsbD_scramble _ hi, getLsbD_scramble _ hi]
    by_cases set : i = 2
    · simp [set]
    · rw [agree _ (Nat.mod_lt _ (by decide)) (by omega)]

theorem getLsbD_xor_0x20 (key : Byte) (i : Nat) :
    (key ^^^ 0x20#8).getLsbD i = (key.getLsbD i ^^ decide (i = 5)) := by
  have mask : (0x20#8).getLsbD i = decide (i = 5) := getLsbD_twoPow_of_lt (by decide : 5 < 8) i
  rw [BitVec.getLsbD_xor, mask]

theorem scramble_eq_scramble_iff (key key' : Byte) :
    scramble key = scramble key' ↔ key' = key ∨ key' = key ^^^ 0x20#8 := by
  rw [scramble_eq_scramble_iff_bits]
  constructor
  · intro agree
    by_cases five : key'.getLsbD 5 = key.getLsbD 5
    · refine .inl (BitVec.eq_of_getLsbD_eq fun i hi => ?_)
      by_cases h : i = 5
      · rw [h, five]
      · exact agree i hi h
    · refine .inr (BitVec.eq_of_getLsbD_eq fun i hi => ?_)
      rw [getLsbD_xor_0x20]
      by_cases h : i = 5
      · rw [h, decide_eq_true rfl, Bool.xor_true, Bool.eq_not.2 five]
      · simp [h, agree i hi h]
  · rintro (rfl | rfl) i - lost
    · rfl
    · rw [getLsbD_xor_0x20, decide_eq_false lost, Bool.xor_false]

/-! The image: undoing the rotation gives a key, since the OR adds nothing to a byte with bit 2 set. -/

theorem scramble_rotr8 {y : Byte} (h : y.getLsbD 2 = true) : scramble (rotr8 y 5) = y := by
  rw [scramble, rotl8_rotr8]
  apply BitVec.eq_of_getLsbD_eq
  intro i hi
  rw [BitVec.getLsbD_or, getLsbD_0x04]
  by_cases set : i = 2
  · simp [set, h]
  · simp [set]

theorem exists_scramble_eq_iff (y : Byte) : (∃ k, scramble k = y) ↔ y.getLsbD 2 = true := by
  constructor
  · rintro ⟨k, rfl⟩
    exact getLsbD_two_scramble k
  · exact fun h => ⟨_, scramble_rotr8 h⟩

/-- Settles O33: the four properties of one application. -/
theorem scrambleProperties : Obligations.ScrambleProperties :=
  fun key key' y => ⟨getLsbD_two_scramble key, rotationCount_scramble key, scramble_eq_scramble_iff key key',
    exists_scramble_eq_iff y⟩

/-! The key stream: set bits move and stay set, and each application sets one more. -/

theorem keyAfter_eq_iterate (k : Byte) (n : Nat) : keyAfter k n = scramble^[n] k := by
  induction n with
  | zero => rfl
  | succ n ih => rw [Function.iterate_succ_apply', ← ih, keyAfter]

/-- A bit set by one of the first `n` applications is set after `n`: the one made `m` applications before the last set
bit 2, which has since moved to `2 + 5 * m`, that is to the `i` with `i + 3 * m = 2` modulo 8. -/
theorem getLsbD_keyAfter_of_lt (k : Byte) {n m i : Nat} (hm : m < n) (hi : i < 8) (h : (i + 3 * m) % 8 = 2) :
    (keyAfter k n).getLsbD i = true := by
  induction n generalizing m i with
  | zero => exact absurd hm (Nat.not_lt_zero m)
  | succ n ih =>
    rw [keyAfter, getLsbD_scramble _ hi]
    cases m with
    | zero =>
      have set : i = 2 := by omega
      simp [set]
    | succ m => rw [ih (m := m) (by omega) (by omega) (by omega), Bool.true_or]

/-- Bit `i` was set by the application `m` before the last, where `3 * m = 2 - i` modulo 8; 3 is its own inverse. -/
theorem keyAfter_eq_0xFF (k : Byte) {n : Nat} (hn : 8 ≤ n) : keyAfter k n = 0xFF#8 := by
  apply BitVec.eq_of_getLsbD_eq
  intro i hi
  have ones : (0xFF#8).getLsbD i = true := by
    rw [show 0xFF#8 = BitVec.allOnes 8 from rfl, BitVec.getLsbD_allOnes, decide_eq_true hi]
  rw [ones]
  exact getLsbD_keyAfter_of_lt k (m := (30 - 3 * i) % 8) (by omega) hi (by omega)

/-- A key that returns after `n` applications returns after `8 * n` too, when the stream is at 0xFF. -/
theorem eq_0xFF_of_keyAfter_eq_self {k : Byte} {n : Nat} (hn : 0 < n) (h : keyAfter k n = k) : k = 0xFF#8 := by
  have periodic : Function.IsPeriodicPt scramble n k := (keyAfter_eq_iterate k n).symm.trans h
  calc k = scramble^[n * 8] k := (periodic.mul_const 8).symm
    _ = keyAfter k (n * 8) := (keyAfter_eq_iterate k _).symm
    _ = 0xFF#8 := keyAfter_eq_0xFF k (by omega)

/-- Settles O34: every key is 0xFF from the eighth application on, where the count is 7, and so only 0xFF returns. -/
theorem keyStreamConverges : Obligations.KeyStreamConverges := by
  refine fun k n => ⟨keyAfter_eq_0xFF k, fun hn => ?_, eq_0xFF_of_keyAfter_eq_self⟩
  rw [keyAfter_eq_0xFF k (by omega)]
  rfl

end Sys2Proof.Machine
end

section
/-! PROOFS. The byte rotator (41_byte_rotator.md R60 to R62): for a fixed key ENC_ONE and DEC_ONE are the two
rotations by one count, so each undoes the other. -/

namespace Sys2Proof.Machine

theorem rotationCount_eq_mod (key : Byte) : rotationCount key = key.toNat % 8 := by
  rw [rotationCount, BitVec.extractLsb'_toNat, Nat.shiftRight_zero]

theorem encOne_eq_rotl8 (plain key : Byte) : encOne plain key = rotl8 plain (key.toNat % 8) := by
  rw [encOne, rotationCount_eq_mod]

theorem decOne_eq_rotr8 (cipher key : Byte) : decOne cipher key = rotr8 cipher (key.toNat % 8) := by
  rw [decOne, rotationCount_eq_mod]

@[simp] theorem decOne_encOne (plain key : Byte) : decOne (encOne plain key) key = plain :=
  rotr8_rotl8 plain (rotationCount key)

@[simp] theorem encOne_decOne (cipher key : Byte) : encOne (decOne cipher key) key = cipher :=
  rotl8_rotr8 cipher (rotationCount key)

theorem encOne_bijective (key : Byte) : Function.Bijective (fun b => encOne b key) :=
  Function.bijective_iff_has_inverse.2
    ⟨fun b => decOne b key, fun b => decOne_encOne b key, fun b => encOne_decOne b key⟩

theorem decOne_bijective (key : Byte) : Function.Bijective (fun b => decOne b key) :=
  Function.bijective_iff_has_inverse.2
    ⟨fun b => encOne b key, fun b => encOne_decOne b key, fun b => decOne_encOne b key⟩

/-- Settles O35: the count is the key modulo 8, and each transform is the other's two-sided inverse, hence
bijective. -/
theorem byteRotatorInverse : Obligations.ByteRotatorInverse :=
  fun p k => ⟨encOne_eq_rotl8 p k, decOne_eq_rotr8 p k, decOne_encOne p k, encOne_decOne p k,
    encOne_bijective k, decOne_bijective k⟩

end Sys2Proof.Machine
end

section
/-! PROOFS. Transactions and command words (42_driver_and_commands.md R66 to R69, R72 to R75, R77 to R82): what each
answers outside BUSY; in BUSY a write answers the state itself (`exec_write_of_busy`). -/

namespace Sys2Proof.Machine

variable {s : State}

/-! The commands outside BUSY; ENC and DEC are alone or carried by WR_CTRL. -/

theorem exec_wrCtrl_of_free (op : CommandWord) (free : s.state ≠ .busy) :
    exec (.wrCtrl op) s = .next (s.dispatchCommand op) :=
  congrArg Host.Outcome.next (State.gated_of_not_busy _ free)

theorem exec_of_starts {i : Instr} {d : Direction} (starts : i.starts = some d) (free : s.state ≠ .busy) :
    exec i s = .next (s.start d) := by
  cases i with
  | enc | dec =>
    cases starts
    exact congrArg Host.Outcome.next (State.gated_of_not_busy _ free)
  | wrCtrl op =>
    rw [exec_wrCtrl_of_free op free]
    rcases s.dispatchCommand_cases op with ⟨rfl, -⟩ | ⟨rfl, -⟩ | ⟨d', starts', dispatched⟩
    · cases starts
    · cases starts
    · obtain rfl : d' = d := Option.some.inj (starts'.symm.trans starts)
      rw [dispatched]
  | _ => cases starts

theorem exec_accepted {i : Instr} {d : Direction} (starts : i.starts = some d) (free : s.state ≠ .busy)
    (le : s.len ≤ s.cfg.maxChars) : exec i s = .next (s.accept d) := by
  rw [exec_of_starts starts free, State.start_of_le d le]

theorem exec_rejected {i : Instr} {d : Direction} (starts : i.starts = some d) (free : s.state ≠ .busy)
    (lt : s.cfg.maxChars < s.len) : exec i s = .next s.raiseInvalidLength := by
  rw [exec_of_starts starts free, State.start_of_lt d lt]

/-- Settles O23: both commands start a run, in their own direction. -/
theorem startCommandsAccepted : Obligations.StartCommandsAccepted :=
  fun _ free le => ⟨exec_accepted rfl free le, exec_accepted rfl free le⟩

/-! The other writes outside BUSY. -/

theorem exec_wrKey_of_free (v : Byte) (free : s.state ≠ .busy) : exec (.wrKey v) s = .next { s with key := v } :=
  congrArg Host.Outcome.next (State.gated_of_not_busy _ free)

theorem exec_wrLen_of_free {v : Nat} (fits : s.cfg.fits v) (free : s.state ≠ .busy) :
    exec (.wrLen v) s = .next { s with len := v } :=
  (State.withField_of_fits _ fits).trans (congrArg Host.Outcome.next (State.gated_of_not_busy _ free))

theorem exec_wrIbuf_of_free {i : Nat} (v : Byte) (fits : s.cfg.fits i) (free : s.state ≠ .busy) :
    exec (.wrIbuf i v) s = .next (s.writeIbuf i v) :=
  (State.withField_of_fits _ fits).trans (congrArg Host.Outcome.next (State.gated_of_not_busy _ free))

/-- Settles O20: the gate, then the four command words, ENC and DEC split by the length check. -/
theorem writeCtrlDispatches : Obligations.WriteCtrlDispatches := by
  refine fun s op => ⟨fun busy => exec_write_of_busy busy rfl rfl, ?nop, ?enc, ?dec, ?tooLong, ?clr⟩
  case nop =>
    rintro free rfl
    exact exec_wrCtrl_of_free _ free
  case enc =>
    rintro free rfl le
    exact exec_accepted rfl free le
  case dec =>
    rintro free rfl le
    exact exec_accepted rfl free le
  case tooLong =>
    rintro free (rfl | rfl) lt
    · exact exec_rejected (d := .encrypt) rfl free lt
    · exact exec_rejected (d := .decrypt) rfl free lt
  case clr =>
    rintro free rfl
    exact exec_wrCtrl_of_free _ free

/-- Settles O22: the write behind the gate is the identity. -/
theorem nopChangesNothing : Obligations.NopChangesNothing :=
  fun _ => congrArg Host.Outcome.next (State.gated_of_eq rfl)

/-- Settles O25: CLR outside and inside BUSY. -/
theorem clearSetsIdle : Obligations.ClearSetsIdle :=
  fun _ => ⟨fun free => congrArg Host.Outcome.next (State.gated_of_not_busy _ free),
    fun busy => exec_write_of_busy busy rfl rfl⟩

/-- Settles O15: WR_KEY outside and inside BUSY. -/
theorem writeKey : Obligations.WriteKey :=
  fun _ v => ⟨exec_wrKey_of_free v, fun busy => exec_write_of_busy busy rfl rfl⟩

/-- Settles O16: WR_LEN outside and inside BUSY; only the width of the operand is asked for. -/
theorem writeLen : Obligations.WriteLen :=
  fun _ _ fits => ⟨exec_wrLen_of_free fits, fun busy => exec_write_of_busy busy (decide_eq_true fits) rfl⟩

/-- Settles O17: read after write at the same and at another index; an unmapped write is the identity. -/
theorem writeIbuf : Obligations.WriteIbuf := by
  intro s i v fits
  refine ⟨fun free mapped => ⟨s.writeIbuf i v, exec_wrIbuf_of_free v fits free, s.writeIbuf_same v mapped,
    fun a other => s.writeIbuf_other v other, s.writeIbuf_obufByte i v, ?_⟩, ?_⟩
  · simp [State.writeIbuf, mapped]
  · intro ignored
    by_cases busy : s.state = .busy
    · exact exec_write_of_busy busy (decide_eq_true fits) rfl
    · rw [exec_wrIbuf_of_free v fits busy, State.writeIbuf_of_unmapped v (ignored.resolve_left busy)]

/-! Reads. -/

/-- Settles O11: each reply is the register; the bounds are the invariant's, with MAX_CHARS < 2^LEN_W for IDX. -/
theorem registerReads : Obligations.RegisterReads := by
  refine fun s => ⟨rfl, rfl, rfl, rfl, fun inv => ⟨inv.len_fits, ?_⟩⟩
  obtain ⟨-, small⟩ := inv.cfg_wf
  exact Nat.lt_of_le_of_lt inv.idx_le small

theorem State.bufferByte_eq_getD (s : State) (b : Buffer) (i : Nat) :
    s.bufferByte b i = ((s.buffer b).read? i).getD (Config.unspecifiedByte s.resets b i) := by
  unfold State.bufferByte
  cases (s.buffer b).read? i <;> rfl

/-- Settles O12: the reply is the buffer read, whose byte is the one written or else the free value. -/
theorem bufferReads : Obligations.BufferReads := by
  intro s i fits
  have ibuf := s.bufferByte_eq_getD .ibuf i
  have obuf := s.bufferByte_eq_getD .obuf i
  exact ⟨ibuf ▸ exec_read (i := .rdIbuf i) rfl (decide_eq_true fits),
    obuf ▸ exec_read (i := .rdObuf i) rfl (decide_eq_true fits)⟩

end Sys2Proof.Machine
end

section
/-! PROOFS. TRANSFORM (42_driver_and_commands.md R65, R86, R88, R90): its output in closed form, byte by byte, and its
final key; the round trip and the chaining follow. -/

namespace Sys2Proof.Machine

/-! The closed form. -/

theorem keyAfter_scramble (k : Byte) (n : Nat) : keyAfter (scramble k) n = keyAfter k (n + 1) := by
  rw [keyAfter_eq_iterate, keyAfter_eq_iterate, Function.iterate_succ_apply]

theorem transformBytes_key (d : Direction) (S : List Byte) (k : Byte) :
    (transformBytes d S k).2 = keyAfter k S.length := by
  induction S generalizing k with
  | nil => rfl
  | cons b bs ih => exact (ih (scramble k)).trans (keyAfter_scramble k bs.length)

theorem transformBytes_output (d : Direction) (S : List Byte) (k : Byte) :
    (transformBytes d S k).1 = S.mapIdx fun i b => rotateByte d b (keyAfter k (i + 1)) := by
  induction S generalizing k with
  | nil => rfl
  | cons b bs ih =>
    rw [List.mapIdx_cons]
    simp only [transformBytes, ih, keyAfter_scramble]
    rfl

theorem transform_all (S : List Byte) (k : Byte) (d : Direction) :
    transform S S.length k d = transformBytes d S k := by
  rw [transform, List.take_length]

theorem transform_length {S : List Byte} {n : Nat} (hn : n ≤ S.length) (k : Byte) (d : Direction) :
    (transform S n k d).1.length = n := by
  rw [transform, transformBytes_output, List.length_mapIdx, List.length_take, Nat.min_eq_left hn]

theorem transform_key {S : List Byte} {n : Nat} (hn : n ≤ S.length) (k : Byte) (d : Direction) :
    (transform S n k d).2 = keyAfter k n := by
  rw [transform, transformBytes_key, List.length_take, Nat.min_eq_left hn]

theorem transform_byte {S : List Byte} {n i : Nat} {b : Byte} (hi : i < n) (hb : S[i]? = some b) (k : Byte)
    (d : Direction) : (transform S n k d).1[i]? = some (rotateByte d b (keyAfter k (i + 1))) := by
  rw [transform, transformBytes_output, List.getElem?_mapIdx, List.getElem?_take_of_lt hi, hb, Option.map_some]

/-- Settles O36: the closed form, with each direction's rotation. (`transformBytes` is the model's loop.) -/
theorem transform_bytes : Obligations.TransformBytes := by
  refine fun S n k hn => ⟨fun d => ⟨transform_length hn k d, transform_key hn k d⟩, fun i b hi hb => ⟨?_, ?_⟩⟩
  · rw [transform_byte hi hb, ← encOne_eq_rotl8]
    rfl
  · rw [transform_byte hi hb, ← decOne_eq_rotr8]
    rfl

/-- Settles O38: the key after `j` bytes is a function of the first key and of `j`. -/
theorem keyIndependentOfData : Obligations.KeyIndependentOfData := by
  intro S S' n k d d' hn hn' j hj
  rw [transform_key (hj.trans hn), transform_key (hj.trans hn')]

/-! The round trip: two rotations of a byte that undo each other under one key. -/

theorem transform_transform {d d' : Direction} (inverse : ∀ b k, rotateByte d' (rotateByte d b k) k = b)
    {S : List Byte} {n : Nat} (hn : n ≤ S.length) (k : Byte) :
    transform (transform S n k d).1 n k d' = (S.take n, keyAfter k n) := by
  have whole : (transform S n k d).1.take n = (transform S n k d).1 :=
    List.take_of_length_le (transform_length hn k d).le
  refine Prod.ext ?_ (transform_key (transform_length hn k d).ge k d')
  rw [transform, whole, transformBytes_output, transform, transformBytes_output]
  exact List.mapIdx_eq_iff.2 fun i => by simp [Function.comp_def, inverse]

/-- Settles O37: DEC_ONE undoes ENC_ONE under the same key, and the other way round. -/
theorem transformRoundTrip : Obligations.TransformRoundTrip :=
  fun _ _ k hn => ⟨transform_transform (d := .encrypt) (d' := .decrypt) decOne_encOne hn k,
    transform_transform (d := .decrypt) (d' := .encrypt) encOne_decOne hn k⟩

/-! Chaining. -/

theorem transformBytes_append (d : Direction) (S₁ S₂ : List Byte) (k : Byte) :
    transformBytes d (S₁ ++ S₂) k =
      ((transformBytes d S₁ k).1 ++ (transformBytes d S₂ (transformBytes d S₁ k).2).1,
        (transformBytes d S₂ (transformBytes d S₁ k).2).2) := by
  induction S₁ generalizing k with
  | nil => rfl
  | cons b bs ih => simp only [List.cons_append, transformBytes, ih]

/-- Settles O39: TRANSFORM of all bytes is its loop, which chains. -/
theorem transformChaining : Obligations.TransformChaining := by
  intro S₁ S₂ k d
  rw [← List.length_append, transform_all, transform_all, transform_all]
  exact transformBytes_append d S₁ S₂ k

end Sys2Proof.Machine
end

section
/-! PROOFS. The ENGINE (42_driver_and_commands.md R70, R71, R89): its turn in each case, what a number of byte steps in
a row does, and that a run left alone finishes. -/

namespace Sys2Proof.Machine

variable {s : State}

/-! One turn. -/

theorem engineStep_of_lt (busy : s.state = .busy) (more : s.idx < s.len) (le : s.len ≤ s.cfg.maxChars) :
    engineStep s = .next s.processByte := by
  have mapped : s.idx < s.cfg.maxChars := Nat.lt_of_lt_of_le more le
  simp [engineStep, byteStep, busy, more, mapped]

theorem engineStep_of_eq (busy : s.state = .busy) (finished : s.idx = s.len) : engineStep s = .next s.complete := by
  simp [engineStep, busy, finished]

theorem engineStep_of_not_busy (free : s.state ≠ .busy) : engineStep s = .next s :=
  if_neg free

/-- Settles O28: the two turns that process no byte. -/
theorem completionStep : Obligations.CompletionStep :=
  ⟨fun _ => engineStep_of_eq, fun _ => engineStep_of_not_busy⟩

/-- Settles O27: under the invariant the turn is `processByte`; its new IDX is at most LEN, which fits.
(`byteStep` is the model's.) -/
theorem byte_step : Obligations.ByteStep := by
  intro s inv busy more
  obtain ⟨le, -⟩ := inv.busy_bounds busy
  refine ⟨s.processByte, engineStep_of_lt busy more le, rfl, rfl, Nat.lt_of_le_of_lt more inv.len_fits, ?_, ?_,
    fun a other => s.processByte_obuf_other other, s.processByte_ibufByte, rfl⟩
  · intro dir
    rw [s.processByte_obuf_same, ← encOne_eq_rotl8, dir]
    rfl
  · intro dir
    rw [s.processByte_obuf_same, ← decOne_eq_rotr8, dir]
    rfl

/-! Byte steps in a row. -/

/-- The state after `j` byte steps, nothing else happening between them. -/
def State.afterBytes (s : State) (j : Nat) : State := State.processByte^[j] s

@[simp] theorem State.afterBytes_zero (s : State) : s.afterBytes 0 = s := rfl

theorem State.afterBytes_succ (s : State) (j : Nat) : s.afterBytes (j + 1) = (s.afterBytes j).processByte :=
  Function.iterate_succ_apply' _ _ _

theorem State.afterBytes_processByte (s : State) (j : Nat) : s.processByte.afterBytes j = s.afterBytes (j + 1) := rfl

/-- Byte steps write OBUF, KS and IDX alone. -/
theorem State.afterBytes_frame (s : State) (j : Nat) : s.afterBytes j =
    { s with obuf := (s.afterBytes j).obuf, ks := (s.afterBytes j).ks, idx := (s.afterBytes j).idx } := by
  induction j with
  | zero => rfl
  | succ j ih =>
    rw [State.afterBytes_succ, ih]
    rfl

section Frame

variable (s) (j : Nat)

@[simp] theorem State.afterBytes_state : (s.afterBytes j).state = s.state := by rw [s.afterBytes_frame]
@[simp] theorem State.afterBytes_dir : (s.afterBytes j).dir = s.dir := by rw [s.afterBytes_frame]
@[simp] theorem State.afterBytes_key : (s.afterBytes j).key = s.key := by rw [s.afterBytes_frame]
@[simp] theorem State.afterBytes_len : (s.afterBytes j).len = s.len := by rw [s.afterBytes_frame]
@[simp] theorem State.afterBytes_ibuf : (s.afterBytes j).ibuf = s.ibuf := by rw [s.afterBytes_frame]
@[simp] theorem State.afterBytes_cfg : (s.afterBytes j).cfg = s.cfg := by rw [s.afterBytes_frame]
@[simp] theorem State.afterBytes_resets : (s.afterBytes j).resets = s.resets := by rw [s.afterBytes_frame]
@[simp] theorem State.afterBytes_replies : (s.afterBytes j).replies = s.replies := by rw [s.afterBytes_frame]
@[simp] theorem State.afterBytes_events : (s.afterBytes j).events = s.events := by rw [s.afterBytes_frame]

end Frame

@[simp] theorem State.afterBytes_idx (s : State) (j : Nat) : (s.afterBytes j).idx = s.idx + j := by
  induction j with
  | zero => rfl
  | succ j ih => rw [State.afterBytes_succ, State.processByte_idx, ih, Nat.add_assoc]

@[simp] theorem State.afterBytes_ks (s : State) (j : Nat) : (s.afterBytes j).ks = keyAfter s.ks j := by
  induction j with
  | zero => rfl
  | succ j ih => rw [State.afterBytes_succ, State.processByte_ks, ih, keyAfter]

theorem State.afterBytes_ibufByte (s : State) (j i : Nat) :
    (s.afterBytes j).bufferByte .ibuf i = s.bufferByte .ibuf i :=
  State.bufferByte_congr (by simp [State.buffer]) (by simp)

/-- From IDX = 0, the first `j` bytes of OBUF are written. -/
theorem State.afterBytes_obufByte_of_lt {j a : Nat} (start : s.idx = 0) (ha : a < j) :
    (s.afterBytes j).bufferByte .obuf a = rotateByte s.dir (s.bufferByte .ibuf a) (keyAfter s.ks (a + 1)) := by
  induction j with
  | zero => omega
  | succ j ih =>
    have idx : (s.afterBytes j).idx = j := by simp [start]
    rw [State.afterBytes_succ]
    rcases Nat.lt_succ_iff_lt_or_eq.1 ha with lt | rfl
    · rw [State.processByte_obuf_other _ (by omega), ih lt]
    · have same := (s.afterBytes a).processByte_obuf_same
      rw [idx] at same
      rw [same, State.afterBytes_dir, State.afterBytes_ibufByte, State.afterBytes_ks]
      rfl

theorem State.afterBytes_obufByte_of_ge {j a : Nat} (start : s.idx = 0) (ha : j ≤ a) :
    (s.afterBytes j).bufferByte .obuf a = s.bufferByte .obuf a := by
  induction j with
  | zero => rfl
  | succ j ih =>
    have idx : (s.afterBytes j).idx = j := by simp [start]
    rw [State.afterBytes_succ, State.processByte_obuf_other _ (by omega), ih (by omega)]

/-! A run left alone. -/

theorem runSteps_one {t : State} (h : step s = .next t) : runSteps 1 s = .next t := by
  rw [runSteps_succ h, runSteps_zero]

/-- With no event left every step of a run is a byte step. -/
theorem runSteps_alone {k : Nat} (busy : s.state = .busy) (le : s.len ≤ s.cfg.maxChars) (he : s.events = [])
    (hk : s.idx + k ≤ s.len) : runSteps k s = .next (s.afterBytes k) := by
  induction k generalizing s with
  | zero => rfl
  | succ k ih =>
    have h : step s = .next s.processByte :=
      (step_nil_of_busy he busy).trans (engineStep_of_lt busy (by omega) le)
    rw [runSteps_succ h, ← State.afterBytes_processByte]
    refine ih busy le he ?_
    rw [State.processByte_idx, State.processByte_len]
    omega

/-- Settles O29: `LEN - IDX` byte steps, then the completion step. -/
theorem runFinishes : Obligations.RunFinishes := by
  intro s inv busy he
  obtain ⟨le, idx_le⟩ := inv.busy_bounds busy
  have run {k : Nat} (hk : k ≤ s.len - s.idx) : runSteps k s = .next (s.afterBytes k) :=
    runSteps_alone busy le he (by omega)
  refine ⟨fun k hk => ⟨s.afterBytes k, run hk, by simp [busy], by simp⟩, ?_⟩
  have finish : step (s.afterBytes (s.len - s.idx)) = .next (s.afterBytes (s.len - s.idx)).complete :=
    (step_nil_of_busy (by simp [he]) (by simp [busy])).trans
      (engineStep_of_eq (by simp [busy]) (by simp [Nat.add_sub_cancel' idx_le]))
  exact ⟨_, (runSteps_add (run le_rfl)).trans (runSteps_one finish), rfl, by simp [Nat.add_sub_cancel' idx_le]⟩

/-! A run of no byte. -/

theorem engineStep_accept_of_empty (empty : s.len = 0) (d : Direction) :
    engineStep (s.accept d) = .next (s.accept d).complete :=
  engineStep_of_eq rfl empty.symm

/-- Settles O40: TRANSFORM's loop over no byte; an accepted run whose first turn is the completion step. -/
theorem emptyInput : Obligations.EmptyInput := by
  refine ⟨fun S k d => ?_, fun s free empty => ⟨s.accept .encrypt, ?_, engineStep_accept_of_empty empty _⟩,
    fun s free empty => ⟨s.accept .decrypt, ?_, engineStep_accept_of_empty empty _⟩⟩
  · rw [transform, List.take_zero]
    rfl
  · exact exec_accepted rfl free (by omega)
  · exact exec_accepted rfl free (by omega)

end Sys2Proof.Machine
end

section
/-! PROOFS. Runs under every interleaving (42_driver_and_commands.md R84, R87). While BUSY a HOST transaction adds at
most a reply, so the state of a run is that of its byte steps alone, up to what belongs to the HOST. -/

namespace Sys2Proof.Machine

variable {s : State} {es rest : List Event}

/-! What belongs to the HOST: its replies and the events to come. -/

/-- The state with the replies `rs` added and `es` as the events still to come. -/
def State.withHost (s : State) (rs : List Reply) (es : List Event) : State :=
  { s with replies := s.replies ++ rs, events := es }

section WithHost

variable (s) (rs : List Reply) (es)

@[simp] theorem State.withHost_state : (s.withHost rs es).state = s.state := rfl
@[simp] theorem State.withHost_dir : (s.withHost rs es).dir = s.dir := rfl
@[simp] theorem State.withHost_key : (s.withHost rs es).key = s.key := rfl
@[simp] theorem State.withHost_len : (s.withHost rs es).len = s.len := rfl
@[simp] theorem State.withHost_ks : (s.withHost rs es).ks = s.ks := rfl
@[simp] theorem State.withHost_idx : (s.withHost rs es).idx = s.idx := rfl
@[simp] theorem State.withHost_ibuf : (s.withHost rs es).ibuf = s.ibuf := rfl
@[simp] theorem State.withHost_obuf : (s.withHost rs es).obuf = s.obuf := rfl
@[simp] theorem State.withHost_cfg : (s.withHost rs es).cfg = s.cfg := rfl
@[simp] theorem State.withHost_resets : (s.withHost rs es).resets = s.resets := rfl
@[simp] theorem State.withHost_replies : (s.withHost rs es).replies = s.replies ++ rs := rfl
@[simp] theorem State.withHost_events : (s.withHost rs es).events = es := rfl

theorem State.withHost_nil : s.withHost [] es = { s with events := es } := by simp [State.withHost]

@[simp] theorem State.withHost_withHost (rs' : List Reply) (es' : List Event) :
    (s.withHost rs es).withHost rs' es' = s.withHost (rs ++ rs') es' := by
  simp [State.withHost]

@[simp] theorem State.readReply_withHost : (s.withHost rs es).readReply = s.readReply := by
  funext i
  cases i <;> rfl

/-- Byte steps neither see nor change what belongs to the HOST. -/
theorem State.withHost_afterBytes (j : Nat) : (s.withHost rs es).afterBytes j = (s.afterBytes j).withHost rs es := by
  induction j with
  | zero => rfl
  | succ j ih =>
    rw [State.afterBytes_succ, State.afterBytes_succ, ih]
    rfl

end WithHost

theorem State.withHost_nil_of_events (he : s.events = es) : s.withHost [] es = s := by
  rw [State.withHost_nil, ← he]

/-! One step of a run. -/

/-- Does this event answer a HOST read? -/
def Event.isRead (c : Config) : Event → Bool
  | .host r =>
    match decode c r with
    | .ok i => !i.isWrite
    | .error _ => false
  | .engine => false
  | .reset => false

theorem Event.isRead_host {c : Config} {r : Request} {i : Instr} (hd : decode c r = .ok i) :
    (Event.host r).isRead c = !i.isWrite := by
  simp [Event.isRead, hd]

theorem step_instr {r : Request} {i : Instr} (he : s.events = .host r :: es) (hd : decode s.cfg r = .ok i) :
    step s = exec i (s.withHost [] es) := by
  rw [step_host he hd, State.withHost_nil]

theorem step_turn (he : s.events = .engine :: es) : step s = engineStep (s.withHost [] es) := by
  rw [step_engine he, State.withHost_nil]

theorem step_read {r : Request} {i : Instr} (he : s.events = .host r :: es) (hd : decode s.cfg r = .ok i)
    (read : i.isWrite = false) : step s = .next (s.withHost [s.readReply i] es) := by
  rw [step_instr he hd, exec_read (s := s.withHost [] es) read (decode_wellFormed hd), State.readReply_withHost]
  exact congrArg Host.Outcome.next (State.withHost_withHost ..)

/-- In BUSY a HOST event adds a reply if it is a read, and does nothing else. -/
theorem step_host_of_busy {r : Request} (busy : s.state = .busy) (he : s.events = .host r :: es)
    (expressible : (Event.host r).expressible s.cfg = true) :
    ∃ rs, step s = .next (s.withHost rs es) ∧ rs.length = if (Event.host r).isRead s.cfg then 1 else 0 := by
  obtain ⟨i, hd⟩ := Event.decode_of_expressible expressible
  cases write : i.isWrite with
  | false => exact ⟨[s.readReply i], step_read he hd write, by simp [Event.isRead_host hd, write]⟩
  | true =>
    refine ⟨[], ?_, by simp [Event.isRead_host hd, write]⟩
    rw [step_instr he hd, exec_write_of_busy (s := s.withHost [] es) busy (decode_wellFormed hd) write]

theorem step_byte (he : s.events = .engine :: es) (busy : s.state = .busy) (more : s.idx < s.len)
    (le : s.len ≤ s.cfg.maxChars) : step s = .next (s.processByte.withHost [] es) :=
  (step_turn he).trans (engineStep_of_lt (s := s.withHost [] es) busy more le)

theorem step_complete (he : s.events = .engine :: es) (busy : s.state = .busy) (finished : s.idx = s.len) :
    step s = .next (s.complete.withHost [] es) :=
  (step_turn he).trans (engineStep_of_eq (s := s.withHost [] es) busy finished)

/-! A run. -/

/-- The events that may be interleaved with a run: any the interface can express but RESET. -/
abbrev Event.interleaves (c : Config) (e : Event) : Prop := e ≠ .reset ∧ e.expressible c = true

/-- While BUSY, events with no more ENGINE turns than there are bytes left make one byte step per ENGINE turn and one
reply per read. -/
theorem runSteps_of_busy (busy : s.state = .busy) (le : s.len ≤ s.cfg.maxChars) (he : s.events = es ++ rest)
    (quiet : ∀ e ∈ es, e.interleaves s.cfg) (turns : s.idx + es.count .engine ≤ s.len) :
    ∃ rs, runSteps es.length s = .next ((s.afterBytes (es.count .engine)).withHost rs rest) ∧
      rs.length = es.countP (Event.isRead s.cfg) := by
  induction es generalizing s with
  | nil => exact ⟨[], congrArg Host.Outcome.next (State.withHost_nil_of_events he).symm, rfl⟩
  | cons e es ih =>
    obtain ⟨⟨notReset, expressible⟩, quiet'⟩ := List.forall_mem_cons.1 quiet
    rw [List.cons_append] at he
    cases e with
    | reset => exact absurd rfl notReset
    | host r =>
      have others : (Event.host r :: es).count .engine = es.count .engine := List.count_cons_of_ne (by simp)
      rw [others] at turns ⊢
      obtain ⟨rs, h, reads⟩ := step_host_of_busy busy he expressible
      obtain ⟨rs', run, reads'⟩ := ih (s := s.withHost rs (es ++ rest)) busy le rfl quiet' turns
      refine ⟨rs ++ rs', ?_, ?_⟩
      · rw [List.length_cons, runSteps_succ h, run, State.withHost_afterBytes, State.withHost_withHost]
      · rw [List.length_append, reads, reads', List.countP_cons, Nat.add_comm]
        rfl
    | engine =>
      rw [List.count_cons_self] at turns ⊢
      have h := step_byte he busy (by omega) le
      obtain ⟨rs, run, reads⟩ := ih (s := s.processByte.withHost [] (es ++ rest)) busy le rfl quiet'
        (by simp only [State.withHost_idx, State.processByte_idx, State.withHost_len, State.processByte_len]; omega)
      refine ⟨rs, ?_, reads⟩
      rw [List.length_cons, runSteps_succ h, run, State.withHost_afterBytes, State.withHost_withHost]
      rfl

theorem wellFormed_of_starts {i : Instr} {d : Direction} (starts : i.starts = some d) (c : Config) :
    i.wellFormed c = true := by
  cases i with
  | enc | dec | wrCtrl op => rfl
  | _ => cases starts

/-- The end of the run that a command accepted now starts: LEN byte steps and the completion step. -/
abbrev State.finished (s : State) (d : Direction) : State := ((s.accept d).afterBytes s.len).complete

section Accepted

variable {i : Instr} {d : Direction} (free : s.state ≠ .busy) (le : s.len ≤ s.cfg.maxChars)
  (starts : i.starts = some d) (quiet : ∀ e ∈ es, e.interleaves s.cfg)

include free le starts

theorem step_accepted (he : s.events = .host (encode s.cfg i) :: es) :
    step s = .next ((s.accept d).withHost [] es) :=
  (step_instr he (decode_encode (wellFormed_of_starts starts _))).trans
    (exec_accepted (s := s.withHost [] es) starts free le)

include quiet

/-- A run in progress: the command and `j` ENGINE turns make `j` byte steps from the accepted state. -/
theorem runSteps_of_accepted (he : s.events = .host (encode s.cfg i) :: (es ++ rest))
    (turns : es.count .engine ≤ s.len) :
    ∃ rs, runSteps (1 + es.length) s = .next (((s.accept d).afterBytes (es.count .engine)).withHost rs rest) ∧
      rs.length = es.countP (Event.isRead s.cfg) := by
  obtain ⟨rs, run, reads⟩ := runSteps_of_busy (s := (s.accept d).withHost [] (es ++ rest)) rfl le rfl quiet
    (by simpa using turns)
  refine ⟨rs, ?_, reads⟩
  rw [Nat.add_comm, runSteps_succ (step_accepted free le starts he), run, State.withHost_afterBytes,
    State.withHost_withHost, List.nil_append]

/-- A whole run: the command, LEN ENGINE turns under any interleaving, and one ENGINE turn more. -/
theorem runSteps_to_done (he : s.events = .host (encode s.cfg i) :: (es ++ .engine :: rest))
    (turns : es.count .engine = s.len) :
    ∃ rs, runSteps (1 + es.length + 1) s = .next ((s.finished d).withHost rs rest) ∧
      rs.length = es.countP (Event.isRead s.cfg) := by
  obtain ⟨rs, run, reads⟩ := runSteps_of_accepted free le starts quiet he turns.le
  rw [turns] at run
  refine ⟨rs, ?_, reads⟩
  have finish : step (((s.accept d).afterBytes s.len).withHost rs (.engine :: rest)) = .next _ :=
    step_complete rfl (by simp) (by simp)
  rw [runSteps_add run, runSteps_one finish]
  simp [State.finished, State.withHost, State.complete]

end Accepted

/-! What a run leaves. -/

/-- The bytes a run will process, IBUF[0 .. LEN). -/
abbrev State.input (s : State) : List Byte := (List.range s.len).map (s.bufferByte .ibuf)

/-- After `j` byte steps of a run OBUF[0 .. j) is the first `j` bytes of TRANSFORM. -/
theorem State.accept_afterBytes_output {d : Direction} {j : Nat} (hj : j ≤ s.len) :
    (List.range j).map (((s.accept d).afterBytes j).bufferByte .obuf) =
      (transform s.input s.len s.key d).1.take j := by
  refine List.ext_getElem? fun a => ?_
  rcases Nat.lt_or_ge a j with lt | ge
  · have input : s.input[a]? = some (s.bufferByte .ibuf a) := by simp [Nat.lt_of_lt_of_le lt hj]
    rw [List.getElem?_take_of_lt lt, transform_byte (Nat.lt_of_lt_of_le lt hj) input, List.getElem?_map,
      List.getElem?_range lt, Option.map_some, State.afterBytes_obufByte_of_lt rfl lt]
    rfl
  · rw [List.getElem?_eq_none (by simpa using ge), List.getElem?_eq_none (by simp [ge])]

/-- At the end of a run OBUF[0 .. LEN) and KS are TRANSFORM. -/
theorem State.finished_result (s : State) (d : Direction) :
    ((List.range s.len).map ((s.finished d).bufferByte .obuf), (s.finished d).ks) =
      transform s.input s.len s.key d := by
  have whole : s.len ≤ s.input.length := by simp
  refine Prod.ext ?_ ?_
  · exact (State.accept_afterBytes_output le_rfl).trans (List.take_of_length_le (transform_length whole _ _).le)
  · exact (State.afterBytes_ks _ _).trans (transform_key whole _ _).symm

theorem State.accept_afterBytes_idx (s : State) (d : Direction) (j : Nat) : ((s.accept d).afterBytes j).idx = j := by
  rw [State.afterBytes_idx, State.accept_idx, Nat.zero_add]

/-- Settles O47: the run's state is that of its byte steps, whose effect on each field is known. -/
theorem runComputesTransform : Obligations.RunComputesTransform := by
  intro s i d es rest free le starts he quiet S j
  refine ⟨fun hj => ?_, ?_⟩
  · obtain ⟨rs, run, -⟩ := runSteps_of_accepted free le starts quiet he hj
    exact ⟨_, run, State.afterBytes_state _ _, State.afterBytes_dir _ _, s.accept_afterBytes_idx d _,
      State.afterBytes_ks _ _, State.afterBytes_key _ _, State.afterBytes_len _ _, State.afterBytes_ibuf _ _,
      State.afterBytes_resets _ _, State.afterBytes_cfg _ _, rfl, State.accept_afterBytes_output hj,
      fun a ha => State.afterBytes_obufByte_of_ge rfl ha⟩
  · rintro hj rest' rfl
    obtain ⟨rs, run, -⟩ := runSteps_to_done free le starts quiet he hj
    exact ⟨_, run, rfl, State.afterBytes_dir _ _, s.accept_afterBytes_idx d _, State.afterBytes_key _ _,
      State.afterBytes_len _ _, State.afterBytes_ibuf _ _, State.afterBytes_resets _ _, State.afterBytes_cfg _ _, rfl,
      s.finished_result d, fun a ha => State.afterBytes_obufByte_of_ge rfl ha⟩

/-- Settles O48: by O47 both results are TRANSFORM of equal arguments. -/
theorem runsAreDeterministic : Obligations.RunsAreDeterministic := by
  intro s s' i i' d es es' rest rest' free free' le le' starts starts' key len input he he' quiet quiet' turns turns'
  obtain ⟨t, run, done, -, idx, -, -, -, -, -, -, result, -⟩ :=
    (runComputesTransform s i d es _ free le starts he quiet).2 turns rest rfl
  obtain ⟨t', run', done', -, idx', -, -, -, -, -, -, result', -⟩ :=
    (runComputesTransform s' i' d es' _ free' le' starts' he' quiet').2 (turns'.trans len) rest' rfl
  have inputs : (List.range s.len).map (s.bufferByte .ibuf) = (List.range s.len).map (s'.bufferByte .ibuf) :=
    List.map_congr_left fun a ha => input a (List.mem_range.1 ha)
  rw [← len, ← key, ← inputs, ← result] at result'
  obtain ⟨obuf, ks⟩ := Prod.mk.inj result'.symm
  exact ⟨t, t', run, run', done, done', ks, by rw [idx, idx', len],
    fun a ha => List.map_inj_left.1 obuf a (List.mem_range.2 ha)⟩

end Sys2Proof.Machine
end

section
/-! PROOFS. HOST programs (30_encoding.md R52; 42_driver_and_commands.md R85, R86): what the writes of `ENCRYPT` and
`DECRYPT`, the polls of WAIT and the reads of READOUT do, one lemma for each part, then the whole sequence. -/

namespace Sys2Proof.Machine

variable {s : State} {es rest : List Event}

/-! LOAD. -/

/-- IBUF after the writes of LOAD from index `i` on: the bytes at unmapped indices are not stored. -/
def Memory.load (maxChars : Nat) : Memory → Nat → List Byte → Memory
  | m, _, [] => m
  | m, i, b :: bs => Memory.load maxChars (if i < maxChars then m.write i b else m) (i + 1) bs

theorem Memory.read?_load_of_lt {maxChars : Nat} (bytes : List Byte) {m : Memory} {i a : Nat} (h : a < i) :
    (m.load maxChars i bytes).read? a = m.read? a := by
  induction bytes generalizing m i with
  | nil => rfl
  | cons b bs ih =>
    rw [Memory.load, ih (by omega)]
    split
    · exact Memory.read?_write_other _ _ (by omega)
    · rfl

theorem Memory.read?_load {maxChars : Nat} {bytes : List Byte} {m : Memory} {i a : Nat} {b : Byte}
    (mapped : i + bytes.length ≤ maxChars) (hb : bytes[a]? = some b) :
    (m.load maxChars i bytes).read? (i + a) = some b := by
  induction bytes generalizing m i a with
  | nil => simp at hb
  | cons c bs ih =>
    rw [List.length_cons] at mapped
    rw [Memory.load, if_pos (by omega)]
    cases a with
    | zero =>
      obtain rfl : c = b := by simpa using hb
      rw [Memory.read?_load_of_lt bs (by omega), Nat.add_zero, Memory.read?_write_same]
    | succ a =>
      have next := ih (m := m.write i c) (i := i + 1) (a := a) (by omega) (by simpa using hb)
      rwa [Nat.add_right_comm] at next

theorem State.writeIbuf_withEvents (s : State) (es : List Event) (i : Nat) (v : Byte) :
    ({ s with events := es } : State).writeIbuf i v =
      { s with ibuf := if i < s.cfg.maxChars then s.ibuf.write i v else s.ibuf, events := es } := by
  unfold State.writeIbuf
  split <;> simp [*]

theorem decode_hostRequest {c : Config} {i : Instr} (wf : i.wellFormed c = true) :
    decode c (hostRequest c i) = .ok i := by
  rw [hostRequest_of_wellFormed wf, decode_encode wf]

/-- One well-formed line of a HOST program. -/
theorem runSteps_line {i : Instr} {t : State} {k : Nat} (he : s.events = .host (hostRequest s.cfg i) :: rest)
    (wf : i.wellFormed s.cfg = true) (h : exec i { s with events := rest } = .next t) :
    runSteps (k + 1) s = runSteps k t :=
  runSteps_succ ((step_host he (decode_hostRequest wf)).trans h)

theorem runSteps_loadFrom {i : Nat} {bytes : List Byte} (free : s.state ≠ .busy)
    (fits : i + bytes.length ≤ 2 ^ s.cfg.lenW) (he : s.events = programEvents s.cfg (loadFrom i bytes) ++ rest) :
    runSteps bytes.length s =
      .next { s with ibuf := s.ibuf.load s.cfg.maxChars i bytes, events := rest } := by
  induction bytes generalizing s i with
  | nil =>
    have left : s.events = rest := he
    rw [← left]
    rfl
  | cons b bs ih =>
    rw [List.length_cons] at fits ⊢
    have fits_i : s.cfg.fits i := Nat.lt_of_lt_of_le (by omega) fits
    have first := exec_wrIbuf_of_free (s := { s with events := programEvents s.cfg (loadFrom (i + 1) bs) ++ rest })
      b fits_i free
    rw [State.writeIbuf_withEvents] at first
    rw [runSteps_line he (decide_eq_true fits_i) first]
    exact ih free (by simp only; omega) rfl

/-! The writes before the command. -/

/-- The state after the writes of KEY, IBUF and LEN, with `es` still to come. -/
def State.setUp (s : State) (k : Byte) (S : List Byte) (es : List Event) : State :=
  { s with key := k, len := S.length, ibuf := s.ibuf.load s.cfg.maxChars 0 S, events := es }

theorem State.setUp_ibufByte {k : Byte} {S : List Byte} (mapped : S.length ≤ s.cfg.maxChars) :
    (List.range S.length).map ((s.setUp k S es).bufferByte .ibuf) = S := by
  refine List.ext_getElem (by simp) fun a _ ha => ?_
  have loaded : (s.setUp k S es).ibuf.read? (0 + a) = some S[a] :=
    Memory.read?_load (by omega) (List.getElem?_eq_getElem ha)
  rw [Nat.zero_add] at loaded
  rw [List.getElem_map, List.getElem_range, State.bufferByte_eq_getD, State.buffer, loaded, Option.getD_some]

theorem runSteps_setup {d : Direction} {k : Byte} {S : List Byte} (free : s.state ≠ .busy)
    (fits : s.cfg.fits S.length) (he : s.events = programEvents s.cfg (setupOp d k S) ++ rest) :
    runSteps (S.length + 2) s = .next (s.setUp k S (.host (encode s.cfg (.wrCtrl d.command)) :: rest)) := by
  have shape : setupOp d k S = .wrKey k :: (loadFrom 0 S ++ [.wrLen S.length, .wrCtrl d.command]) := by
    simp [setupOp, loadOp, cmdOp]
  rw [shape, programEvents_cons, programEvents_append, List.cons_append, List.append_assoc] at he
  rw [runSteps_line he rfl (exec_wrKey_of_free k free)]
  let after := programEvents s.cfg [.wrLen S.length, .wrCtrl d.command] ++ rest
  have load := runSteps_loadFrom (s := { s with key := k, events := programEvents s.cfg (loadFrom 0 S) ++ after })
    free (by simpa using fits.le) rfl
  exact (runSteps_add load).trans
    (runSteps_line (k := 0) (i := .wrLen S.length) rfl (decide_eq_true fits) (exec_wrLen_of_free fits free))

/-! WAIT. -/

/-- The events while a HOST program waits: ENGINE turns and polls of STATUS. -/
abbrev Event.waits (c : Config) (e : Event) : Prop := e = .engine ∨ e = .host (encode c .rdStatus)

theorem Event.waits.interleaves {c : Config} {e : Event} (h : e.waits c) : e.interleaves c := by
  rcases h with rfl | rfl
  · exact ⟨by simp, rfl⟩
  · exact ⟨by simp, rfl⟩

theorem countP_isRead_add_count_engine {c : Config} (waits : ∀ e ∈ es, e.waits c) :
    es.countP (Event.isRead c) + es.count .engine = es.length := by
  induction es with
  | nil => rfl
  | cons e es ih =>
    obtain ⟨wait, waits'⟩ := List.forall_mem_cons.1 waits
    have counted := ih waits'
    rcases wait with rfl | rfl
    · have turn : ¬ Event.engine.isRead c = true := Bool.false_ne_true
      rw [List.countP_cons_of_neg turn, List.count_cons_self, List.length_cons, ← Nat.add_assoc, counted]
    · have poll : (Event.host (encode c .rdStatus)).isRead c = true := rfl
      rw [List.countP_cons_of_pos poll, List.count_cons_of_ne (by simp), List.length_cons, Nat.add_right_comm, counted]

theorem step_wait_of_not_busy {e : Event} (free : s.state ≠ .busy) (wait : e.waits s.cfg) (he : s.events = e :: es) :
    ∃ rs, step s = .next (s.withHost rs es) ∧ rs.length = if e.isRead s.cfg then 1 else 0 := by
  rcases wait with rfl | rfl
  · exact ⟨[], (step_turn he).trans (engineStep_of_not_busy (s := s.withHost [] es) free), rfl⟩
  · exact ⟨[s.readReply .rdStatus], step_read he rfl rfl, rfl⟩

/-- Outside BUSY waiting adds the replies of the polls and does nothing else. -/
theorem runSteps_wait_of_not_busy (free : s.state ≠ .busy) (waits : ∀ e ∈ es, e.waits s.cfg)
    (he : s.events = es ++ rest) :
    ∃ rs, runSteps es.length s = .next (s.withHost rs rest) ∧ rs.length = es.countP (Event.isRead s.cfg) := by
  induction es generalizing s with
  | nil => exact ⟨[], congrArg Host.Outcome.next (State.withHost_nil_of_events he).symm, rfl⟩
  | cons e es ih =>
    obtain ⟨wait, waits'⟩ := List.forall_mem_cons.1 waits
    rw [List.cons_append] at he
    obtain ⟨rs, h, reads⟩ := step_wait_of_not_busy free wait he
    obtain ⟨rs', run, reads'⟩ := ih (s := s.withHost rs (es ++ rest)) free waits' rfl
    refine ⟨rs ++ rs', ?_, ?_⟩
    · rw [List.length_cons, runSteps_succ h, run, State.withHost_withHost]
    · rw [List.length_append, reads, reads', List.countP_cons, Nat.add_comm]
      rfl

/-- A list with more than `n` ENGINE turns, cut at the one that comes after `n` of them. -/
theorem exists_eq_append_engine {n : Nat} (h : n + 1 ≤ es.count .engine) :
    ∃ before after, es = before ++ .engine :: after ∧ before.count .engine = n := by
  induction es generalizing n with
  | nil => simp at h
  | cons e es ih =>
    by_cases turn : e = .engine
    · subst turn
      rw [List.count_cons_self] at h
      cases n with
      | zero => exact ⟨[], es, rfl, rfl⟩
      | succ n =>
        obtain ⟨before, after, rfl, count⟩ := ih (Nat.le_of_succ_le_succ h)
        exact ⟨.engine :: before, after, rfl, by rw [List.count_cons_self, count]⟩
    · rw [List.count_cons_of_ne turn] at h
      obtain ⟨before, after, rfl, count⟩ := ih h
      exact ⟨e :: before, after, rfl, by rw [List.count_cons_of_ne turn, count]⟩

/-- An accepted command and a wait with at least `LEN + 1` ENGINE turns: the run ends, and the rest of the wait only
polls. -/
theorem runSteps_command_wait {i : Instr} {d : Direction} (free : s.state ≠ .busy) (le : s.len ≤ s.cfg.maxChars)
    (starts : i.starts = some d) (waits : ∀ e ∈ es, e.waits s.cfg) (turns : s.len + 1 ≤ es.count .engine)
    (he : s.events = .host (encode s.cfg i) :: (es ++ rest)) :
    ∃ polls, runSteps (1 + es.length) s = .next ((s.finished d).withHost polls rest) ∧
      polls.length + es.count .engine = es.length := by
  obtain ⟨before, after, rfl, count⟩ := exists_eq_append_engine turns
  obtain ⟨waitsBefore, -, waitsAfter⟩ := by simpa only [List.forall_mem_append, List.forall_mem_cons] using waits
  rw [List.append_assoc, List.cons_append] at he
  obtain ⟨rs, run, reads⟩ :=
    runSteps_to_done free le starts (fun e h => (waitsBefore e h).interleaves) he count
  obtain ⟨rs', run', reads'⟩ := runSteps_wait_of_not_busy
    (s := (s.finished d).withHost rs (after ++ rest)) (es := after) (rest := rest)
    (by simp) (by simpa using waitsAfter) rfl
  rw [State.withHost_withHost] at run'
  have steps : 1 + (before ++ Event.engine :: after).length = 1 + before.length + 1 + after.length := by
    rw [List.length_append, List.length_cons]
    omega
  refine ⟨rs ++ rs', ?_, ?_⟩
  · rw [steps, runSteps_add run, run']
  · rw [← countP_isRead_add_count_engine waits, List.countP_append, List.countP_cons_of_neg Bool.false_ne_true,
      List.length_append, reads, reads']
    simp

/-! READOUT. -/

/-- A program of reads answers each in turn. -/
theorem runSteps_reads {p : List Instr} (reads : ∀ i ∈ p, i.isWrite = false ∧ i.wellFormed s.cfg = true)
    (he : s.events = programEvents s.cfg p ++ rest) :
    runSteps p.length s = .next (s.withHost (p.map s.readReply) rest) := by
  induction p generalizing s with
  | nil => exact congrArg Host.Outcome.next (State.withHost_nil_of_events he).symm
  | cons i p ih =>
    obtain ⟨⟨read, wf⟩, reads'⟩ := List.forall_mem_cons.1 reads
    rw [programEvents_cons, List.cons_append] at he
    have h := step_read he (decode_hostRequest wf) read
    have run := ih (s := s.withHost [s.readReply i] (programEvents s.cfg p ++ rest)) reads' rfl
    rw [List.length_cons, runSteps_succ h, run, State.withHost_withHost]
    simp

theorem runSteps_readout {n : Nat} (mapped : n ≤ s.cfg.maxChars) (small : s.cfg.maxChars < 2 ^ s.cfg.lenW)
    (he : s.events = programEvents s.cfg (readoutOp n) ++ rest) :
    runSteps n s = .next (s.withHost (((List.range n).map (s.bufferByte .obuf)).map .byte) rest) := by
  have replies : (readoutOp n).map s.readReply = ((List.range n).map (s.bufferByte .obuf)).map .byte := by
    rw [readoutOp, List.map_map, List.map_map]
    refine List.map_congr_left fun a ha => congrArg Reply.byte (if_pos ?_)
    exact Nat.lt_of_lt_of_le (List.mem_range.1 ha) mapped
  have steps : (readoutOp n).length = n := by simp [readoutOp]
  rw [← replies]
  have run := runSteps_reads (p := readoutOp n) ?_ he
  · rwa [steps] at run
  · intro i hi
    obtain ⟨a, ha, rfl⟩ := List.mem_map.1 hi
    exact ⟨rfl, decide_eq_true (((List.mem_range.1 ha).trans_le mapped).trans small)⟩

/-! The whole sequence. -/

theorem setupOp_length (d : Direction) (k : Byte) (S : List Byte) : (setupOp d k S).length = S.length + 3 := by
  simp [setupOp, loadOp_length, cmdOp]

theorem starts_command (d : Direction) : (Instr.wrCtrl d.command).starts = some d := by
  cases d <;> rfl

theorem State.setUp_finished_result {k : Byte} {S : List Byte} (mapped : S.length ≤ s.cfg.maxChars) (d : Direction) :
    ((List.range S.length).map (((s.setUp k S es).finished d).bufferByte .obuf), ((s.setUp k S es).finished d).ks) =
      transform S S.length k d :=
  ((s.setUp k S es).finished_result d).trans
    (congrArg (transform · S.length k d) (State.setUp_ibufByte mapped))

/-- Setup, a wait long enough, READOUT: the run of the bytes written, then the replies of the polls and of READOUT. -/
theorem runSteps_sequence {d : Direction} {k : Byte} {S : List Byte} {mid : List Event} (free : s.state ≠ .busy)
    (mapped : S.length ≤ s.cfg.maxChars) (small : s.cfg.maxChars < 2 ^ s.cfg.lenW)
    (waits : ∀ e ∈ mid, e.waits s.cfg) (turns : S.length + 1 ≤ mid.count .engine)
    (he : s.events = programEvents s.cfg (setupOp d k S) ++
      (mid ++ (programEvents s.cfg (readoutOp S.length) ++ rest))) :
    ∃ es polls, runSteps (S.length + 2 + (1 + mid.length + S.length)) s =
        .next (((s.setUp k S es).finished d).withHost (polls ++ (transform S S.length k d).1.map .byte) rest) ∧
      polls.length + mid.count .engine = mid.length := by
  let es := Event.host (encode s.cfg (.wrCtrl d.command)) ::
    (mid ++ (programEvents s.cfg (readoutOp S.length) ++ rest))
  have setUp : runSteps (S.length + 2) s = .next (s.setUp k S es) :=
    runSteps_setup free (Nat.lt_of_le_of_lt mapped small) he
  obtain ⟨polls, run, count⟩ :=
    runSteps_command_wait (s := s.setUp k S es) free mapped (starts_command d) waits turns rfl
  refine ⟨es, polls, ?_, count⟩
  have cfg : ((s.setUp k S es).finished d).cfg = s.cfg := State.afterBytes_cfg _ _
  obtain ⟨output, -⟩ := Prod.ext_iff.1 (State.setUp_finished_result mapped d)
  rw [runSteps_add setUp, runSteps_add run, runSteps_readout (rest := rest) (by rwa [State.withHost_cfg, cfg])
    (by rwa [State.withHost_cfg, cfg]) (by rw [State.withHost_events, State.withHost_cfg, cfg]),
    State.withHost_withHost, ← output]
  rfl

/-- Settles O49: setup, the run under the wait's interleaving, READOUT; or setup and a rejected command. -/
theorem hostSequenceComputesTransform : Obligations.HostSequenceComputesTransform := by
  intro s d k S mid rest cfg_wf free waits setup readout
  obtain ⟨-, small⟩ := cfg_wf
  have setup_length : setup.length = S.length + 3 := by rw [programEvents_length, setupOp_length]
  have readout_length : readout.length = S.length := by simp [readout, readoutOp]
  refine ⟨fun mapped turns he => ?_, fun long fits he => ?_⟩
  · obtain ⟨es, polls, run, count⟩ := runSteps_sequence free mapped small waits turns he
    obtain ⟨-, key⟩ := Prod.ext_iff.1 (State.setUp_finished_result (es := es) (k := k) mapped d)
    have steps : setup.length + (mid.length + readout.length) = S.length + 2 + (1 + mid.length + S.length) := by omega
    refine ⟨_, polls, (congrArg (runSteps · s) steps).trans run, count, ?_, rfl, State.afterBytes_dir _ _,
      State.afterBytes_key _ _, State.afterBytes_len _ _, State.accept_afterBytes_idx _ d _, key,
      (List.map_congr_left fun a _ => State.afterBytes_ibufByte _ _ a).trans
        (State.setUp_ibufByte (k := k) (es := es) mapped),
      State.afterBytes_cfg _ _, rfl⟩
    have replies : ((s.setUp k S es).finished d).replies = s.replies := State.afterBytes_replies _ _
    rw [State.withHost_replies, replies, List.append_assoc]
  · have setUp := runSteps_setup (rest := rest) free fits he
    have command : step (s.setUp k S (.host (encode s.cfg (.wrCtrl d.command)) :: rest)) = .next _ :=
      (step_instr rfl (decode_encode rfl)).trans (exec_rejected (starts_command d) free long)
    have run := (runSteps_add setUp).trans (runSteps_one command)
    exact ⟨_, (congrArg (runSteps · s) setup_length).trans run, rfl, rfl, rfl, rfl, rfl, List.append_nil _, rfl⟩

/-- Settles O50: O49 twice, the second time with the bytes the first READOUT answered; then the round trip of
TRANSFORM. -/
theorem hardwareRoundTrip : Obligations.HardwareRoundTrip := by
  intro s k S mid mid' rest cfg_wf free mapped waits turns turns' readout first second he
  obtain ⟨waitsFirst, waitsSecond⟩ := List.forall_mem_append.1 waits
  have length : (transform S S.length k .encrypt).1.length = S.length := transform_length le_rfl k .encrypt
  obtain ⟨t, polls, run, -, replies, done, -, -, -, -, -, -, cfg, events⟩ :=
    (hostSequenceComputesTransform s .encrypt k S mid (second ++ rest) cfg_wf free waitsFirst).1 mapped turns
      (by simpa [first, readout] using he)
  obtain ⟨t', polls', run', -, replies', -, -, -, -, -, -, -, -, events'⟩ :=
    (hostSequenceComputesTransform t .decrypt k (transform S S.length k .encrypt).1 mid' rest (cfg ▸ cfg_wf)
      (by simp [done]) (cfg ▸ waitsSecond)).1 (by rw [cfg, length]; exact mapped) (by rw [length]; exact turns')
      (by simpa [second, readout, cfg, length] using events)
  refine ⟨t', polls, polls', ?_, events', ?_⟩
  · rw [cfg, length, ← List.length_append, ← List.length_append] at run'
    rw [← List.length_append, ← List.length_append] at run
    exact (runSteps_add run).trans run'
  · rw [replies', replies, length, transform_transform (d := .encrypt) (d' := .decrypt) decOne_encOne le_rfl k]
    simp

end Sys2Proof.Machine
end

section
/-! PROOFS. The one exception (60_exceptions.md R92, R94, R98): what a rejected command does, the one way into ERROR and
the three ways out of it, and that nothing else fails. -/

namespace Sys2Proof.Machine

variable {s t : State}

/-! ERROR is entered by a rejected command alone. -/

/-- STATUS[1:0] is STATE (30_encoding.md R49). -/
theorem State.status_low_bits (s : State) : s.status.extractLsb' 0 2 = s.state.code := by
  rw [State.status_eq rfl rfl]
  cases s.dir <;> cases s.state <;> rfl

theorem StepEffect.eq_of_enters_error (h : StepEffect s t) (before : s.state ≠ .error) (after : t.state = .error) :
    s.rejectsNext ∧ t = s.pop.raiseInvalidLength := by
  cases h with
  | reject rejects => exact ⟨rejects, rfl⟩
  | accept | clear | complete | reset => cases after
  | _ => exact absurd after before

/-- Settles O24: a started command over the length is rejected; STATUS and the ENGINE look at STATE; of the effects a
step can have, only the rejection sets ERROR. -/
theorem invalidLength : Obligations.InvalidLength := by
  refine ⟨fun s free lt => ?raised, fun s inError => ⟨?status, ?engine⟩, fun s t h before after => ?onlyThere⟩
  case raised =>
    exact ⟨exec_rejected rfl free lt, exec_rejected rfl free lt, exec_rejected rfl free lt, exec_rejected rfl free lt⟩
  case status =>
    rw [s.status_low_bits, inError]
    rfl
  case engine => exact engineStep_of_not_busy (by simp [inError])
  case onlyThere =>
    obtain ⟨rejects, rfl⟩ := (step_effect h).eq_of_enters_error before after
    exact ⟨rejects, s.events.tail, rfl⟩

/-! ERROR is left by CLR, by an accepted command and by RESET. -/

theorem State.raiseInvalidLength_of_error (inError : s.state = .error) : s.raiseInvalidLength = s := by
  rw [State.raiseInvalidLength, ← inError]

/-- Settles O26: of the five writers of STATE, a rejection stays in ERROR and a completion happens in BUSY alone; the
other three are the ways out. -/
theorem errorIsLeftInThreeWays : Obligations.ErrorIsLeftInThreeWays := by
  refine ⟨fun s t inError h left => ?ways, fun s inError lt => ?stays⟩
  case ways =>
    have changed : t.state ≠ s.state := by rwa [inError]
    rcases (step_effect h).state_writers changed with accepted | ⟨-, stays⟩ | ⟨⟨busy, -⟩, -⟩ | cleared | resets
    · exact .inr (.inl accepted)
    · exact absurd stays left
    · cases inError.symm.trans busy
    · exact .inl cleared
    · exact .inr (.inr resets)
  case stays =>
    have free : s.state ≠ .busy := by simp [inError]
    have enc := exec_rejected (i := .enc) rfl free lt
    have dec := exec_rejected (i := .dec) rfl free lt
    rw [State.raiseInvalidLength_of_error inError] at enc dec
    exact ⟨enc, dec⟩

/-! Nothing else fails. -/

/-- A step answers a next state unless its event is a HOST request that does not decode; only that event, not the ones
after it, decides which. -/
theorem State.Inv.step_next_or_malformed (inv : s.Inv) :
    (∃ t, step s = .next t) ∨ ∃ r es e, s.events = .host r :: es ∧ decode s.cfg r = .error e := by
  rcases he : s.events with _ | ⟨_ | _ | _, es⟩
  case nil => exact .inl (inv.step_next (by simp [he]))
  case cons.host r =>
    cases hd : decode s.cfg r with
    | error e => exact .inr ⟨r, es, e, rfl, hd⟩
    | ok i =>
      rw [step_host he hd]
      exact .inl (exec_of_wellFormed (decode_wellFormed hd))
  case cons.engine =>
    rw [step_engine he, State.pop_of_cons he]
    exact .inl inv.pop.engineStep_next
  case cons.reset => exact .inl ⟨_, step_reset he⟩

/-- Settles O43: a step that answers a next state did not stop, and a request that does not decode is refused with the
decoder's reason. -/
theorem stepStopsOnlyOnMalformedBits : Obligations.StepStopsOnlyOnMalformedBits := by
  intro s inv
  rcases inv.step_next_or_malformed with ⟨t, next⟩ | ⟨r, es, e, he, hd⟩
  · simp [next]
  · have refused := step_malformed he hd
    refine ⟨by simp [refused], fun q h => ⟨r, es, e, he, hd, ?_⟩⟩
    exact (Host.Outcome.refused.inj (refused.symm.trans h)).symm

end Sys2Proof.Machine
end

section
/-! PROOFS. RESET (70_reset_and_hazards.md R105, R106): what it does to the buffers, what ENC does right after it, and
that it does the same from every state. -/

namespace Sys2Proof.Machine

/-! RESET empties both buffers, so every byte is the free value of the new RESET number. -/

@[simp] theorem State.afterReset_buffer (c : Config) (n : Nat) (rs : List Reply) (es : List Event) (b : Buffer) :
    (State.afterReset c n rs es).buffer b = [] := by
  cases b <;> rfl

@[simp] theorem State.afterReset_bufferByte (c : Config) (n : Nat) (rs : List Reply) (es : List Event) (b : Buffer)
    (i : Nat) : (State.afterReset c n rs es).bufferByte b i = Config.unspecifiedByte n b i := by
  rw [State.bufferByte_eq_getD, State.afterReset_buffer, State.afterReset_resets, Memory.read?, Option.getD_none]

@[simp] theorem State.takeReset_bufferByte (s : State) (b : Buffer) (i : Nat) :
    s.takeReset.bufferByte b i = Config.unspecifiedByte (s.resets + 1) b i :=
  State.afterReset_bufferByte _ _ _ _ b i

/-- DIR, KS and IDX already have the values an encrypt run with KEY 0 starts from. -/
theorem State.afterReset_accept_encrypt (c : Config) (n : Nat) (rs : List Reply) (es : List Event) :
    (State.afterReset c n rs es).accept .encrypt = { State.afterReset c n rs es with state := .busy } := rfl

/-- Settles O8: the fields are the reset values; the state is IDLE, so no step is enabled and ENC with LEN 0 is
accepted as the run of no byte, whose first turn completes it. -/
theorem resetValues : Obligations.ResetValues := by
  intro c n rs es s
  have free : s.state ≠ .busy := by simp [s]
  have accepted : exec .enc s = .next (s.accept .encrypt) := exec_accepted rfl free (Nat.zero_le _)
  have finishes : engineStep (s.accept .encrypt) = .next (s.accept .encrypt).complete :=
    engineStep_accept_of_empty rfl .encrypt
  rw [State.afterReset_accept_encrypt] at accepted finishes
  exact ⟨rfl, rfl, State.status_eq (e := .idle) (d := .encrypt) rfl rfl, rfl, rfl, rfl, rfl, exec_read rfl rfl,
    State.afterReset_bufferByte c n rs es, engineStep_of_not_busy free, accepted, finishes⟩

/-- Settles O9: the step is `takeReset`, which keeps the configuration and what belongs to the HOST and counts the
RESET; STATE and the buffers have no part in it. -/
theorem resetFromAnyState : Obligations.ResetFromAnyState := fun s es reset =>
  ⟨State.takeReset { s with events := es }, step_reset reset, rfl, rfl, rfl, rfl, rfl, rfl,
    State.takeReset_bufferByte { s with events := es }, rfl, rfl, rfl, rfl⟩

end Sys2Proof.Machine
end
